-- ==== Sys2Proof/Word.lean ====
section
/-! DEFINITION. The bit-vector types of the block: bytes of the line and of serialised words, and the 16-bit operand
(00_scope.md R7, R8). -/

namespace Sys2Proof

/-- One byte, on the line (R57) or in a serialised word (R79). -/
abbrev Byte := BitVec 8

/-- A payload, an operand or a response value: `PAYLOAD_W` = 16 bits, unsigned (R7). -/
abbrev Half := BitVec 16

end Sys2Proof
end

