-- ==== Sys2Proof/Config.lean ====
section
/-! DEFINITION. What an implementation fixes (00_scope.md R7, 93_implementation_defined.md section 5), the command type
the code table is indexed by, and the one free value of the model: a verdict the environment leaves open (R10). -/

namespace Sys2Proof

/-- The eight commands, in the source's order (R28). `none` is a tag only: never enqueued, never transmitted. -/
inductive Command where
  | none
  | getTemp
  | getSetTemp
  | setTemp
  | getOutput
  | getSensorStatus
  | setPowerStatus
  | getPowerStatus
  deriving DecidableEq, Repr

/-- A verdict of the transport: `w` of a write, `v` of an open (R10). -/
inductive Verdict where
  | ok
  | fail
  deriving DecidableEq, Repr, Inhabited

/-- The configurable part of `CMD_CODE` (R72): the codes of the seven transmitted commands. A code is in 0..99 by its
type, and `CMD_CODE[NONE]` = 0 needs no entry (R73; log 2). -/
structure CmdCodes where
  getTemp : Fin 100
  getSetTemp : Fin 100
  setTemp : Fin 100
  getOutput : Fin 100
  getSensorStatus : Fin 100
  setPowerStatus : Fin 100
  getPowerStatus : Fin 100
  deriving DecidableEq, Repr

/-- The codes of the seven transmitted commands as a list, in the order of R28. -/
def CmdCodes.all (t : CmdCodes) : List (Fin 100) :=
  [t.getTemp, t.getSetTemp, t.setTemp, t.getOutput, t.getSensorStatus, t.setPowerStatus, t.getPowerStatus]

/-- The code table of R72, "exactly as the source gives it". -/
def CmdCodes.default : CmdCodes where
  getTemp := 1
  getSetTemp := 30
  setTemp := 60
  getOutput := 3
  getSensorStatus := 4
  setPowerStatus := 65
  getPowerStatus := 35

/-- The open parameters of R7. `TIME_UNIT` is "open; not modelled". -/
structure Config where
  /-- `CMD_CODE` (R72). -/
  cmdCode : CmdCodes
  /-- `T_TIMEOUT`, in TIME_TICK units. -/
  tTimeout : Nat
  /-- `TW`, the width of `tmr_cnt` in bits. -/
  tw : Nat
  /-- `Q_DEPTH`; `none` is unbounded. -/
  qDepth : Option Nat
  deriving DecidableEq, Repr

/-- The defaults of R7: `T_TIMEOUT` 1000, `TW` 10, `Q_DEPTH` unbounded, and the code table of R72. -/
def Config.default : Config where
  cmdCode := CmdCodes.default
  tTimeout := 1000
  tw := 10
  qDepth := none

/-- What R7 and R73 ask of the parameters: `T_TIMEOUT` >= 1, 2^`TW` > `T_TIMEOUT`, `Q_DEPTH` >= 1 or unbounded, and
pairwise distinct codes. -/
abbrev Config.WellFormed (c : Config) : Prop :=
  1 ≤ c.tTimeout ∧ c.tTimeout < 2 ^ c.tw ∧ c.qDepth ≠ some 0 ∧ c.cmdCode.all.Nodup

/-- FREE VALUE (log 4): the verdict the transport gives at the n-th draw when the input leaves it open. "It is a draw:
the model takes every value the transport may give" (R10). It has no body. -/
opaque Config.freeVerdict : Nat → Verdict

/-- The port configuration of OPEN: "port identifier, baud rate, data bits, parity, stop bits, flow control" (R37).
The block hands it to the transport unmodified and gives it no meaning; six opaque numbers (log 5). -/
structure PortConfig where
  portId : Nat
  baudRate : Nat
  dataBits : Nat
  parity : Nat
  stopBits : Nat
  flowControl : Nat
  deriving DecidableEq, Repr

end Sys2Proof
end

