-- ==== Sys2Proof/Syntax.lean ====
section
/-! DEFINITION. The rows of spec/opcode_table.json as one inductive, the ports their words stand on, and the names by
which the decoder refuses a word (30_encoding.md R81). -/

namespace Sys2Proof

/-- Where a word stands (R6). `line` is the receiving side of the serial link, where a whole response frame stands
before the transport hands its bytes over (R71; log 11). -/
inductive Port where
  /-- `host_op`: format H words in. -/
  | hostOp
  /-- `rx_ev`: format E words in. -/
  | rxEv
  /-- `rst`: the reset pin. -/
  | rst
  /-- `host_out`: format N records out. -/
  | hostOut
  /-- `tx`: request frames out. -/
  | tx
  /-- The serial link from the device: response frames. -/
  | line
  deriving DecidableEq, Repr

/-- One constructor per row of the opcode table. -/
inductive Instr where
  -- Format H: host operations (R75)
  | openLink
  | closeLink
  | isOpen
  | setTemperature (payload : Half)
  | readTemperature
  | readSetTemperature
  | readOutput
  | readSensorStatus
  | setPowerStatus (b : Bool)
  | readPowerStatus
  | dispatch
  -- Format E: transport and time-base events (R78)
  | rxChunk (bytes : List Byte)
  | lineError (kind : BitVec 7) (fatal : Bool)
  | timeTick
  -- Format PIN (R200)
  | reset
  -- Format N: output records (R80)
  | nValue (cmd : Byte) (value : Half)
  | nError (cmd kind detail : Byte)
  | nRawFrame (frame : List Byte)
  | nFatal (detail : Byte)
  | rIsOpen (b : Bool)
  -- Format WIRE_REQ: request frames (R70, R72)
  | wireNone (payload : Half)
  | wireGetTemp (payload : Half)
  | wireGetOutput (payload : Half)
  | wireGetSensorStatus (payload : Half)
  | wireGetSetTemp (payload : Half)
  | wireGetPowerStatus (payload : Half)
  | wireSetTemp (payload : Half)
  | wireSetPowerStatus (payload : Half)
  -- Format WIRE_RSP: the response frame (R71)
  | wireResponse (d0 d1 d2 d3 k0 k1 : Byte)
  deriving DecidableEq, Repr

/-- Why the decoder refuses a word: "The refusal is by name" (R81). -/
inductive DecodeError where
  /-- An `opc` not in R75. -/
  | reservedOpc (opc : Byte)
  /-- An `evc` not in R78. -/
  | reservedEvc (evc : Byte)
  /-- A must-be-zero bit of `opnd` is 1 (R76). -/
  | operandNotZero (opc : Byte)
  /-- A must-be-zero bit of `arg` is 1 (R78). -/
  | argNotZero (evc : Byte)
  /-- RX_CHUNK with n = 0 (R81). -/
  | emptyChunk
  /-- Fewer bytes than the word has (R79). -/
  | truncated
  /-- The byte on `rst` is not "asserted" (log 12). -/
  | resetNotAsserted
  /-- A record tag outside 0x80..0x84 (93 R-5). -/
  | reservedTag (tag : Byte)
  /-- A zero field of a record is not zero (R80). -/
  | recordFieldNotZero (tag : Byte)
  /-- Ten bytes that are no request frame of the code table (R70, R72). -/
  | notARequestFrame
  /-- Eight bytes that are no well-shaped response frame (R71). -/
  | notAResponseFrame
  deriving DecidableEq, Repr

/-- What the decoder answers: an instruction with the bytes that follow it, or a refusal by name. -/
inductive Decoded where
  | word (i : Instr) (rest : List Byte)
  | refused (e : DecodeError)
  deriving DecidableEq, Repr

end Sys2Proof
end

