-- ==== Sys2Proof/Machine/State.lean ====
section
/-! DEFINITION. The state of the block (10_state.md), the output records and histories (R27, R80), and the reasons a step
can stop. Plain data throughout. -/

namespace Sys2Proof.Machine

/-- `fsm` (R21): IDLE = 0, AWAIT = 1. -/
inductive Fsm where
  | idle
  | await
  deriving DecidableEq, Repr

/-- A queue entry, "a pair `(cmd, payload)`" (R23). -/
structure Entry where
  cmd : Command
  payload : Half
  deriving DecidableEq, Repr

/-- The four error kinds (R84, R170). -/
inductive ErrorKind where
  | notOpen
  | checksumMismatch
  | responseTimeout
  | transportFault
  deriving DecidableEq, Repr

/-- An output record on `host_out` (R80). `cmd` is the `CMD_CODE` tag; the frame of `nRawFrame` is its 8 bytes. -/
inductive Record where
  | nValue (value : Half) (cmd : Byte)
  | nError (kind : ErrorKind) (cmd detail : Byte)
  | nRawFrame (frame : List Byte)
  | nFatal (detail : Byte)
  | rIsOpen (b : Bool)
  deriving DecidableEq, Repr

/-- An entry of `TXLOG`: the frame presented on `tx` and the transport's verdict (R27). -/
structure TxEntry where
  frame : List Byte
  verdict : Verdict
  deriving DecidableEq, Repr

/-- A call on `xport_ctl` (R6): `xopen(cfg)` with its verdict, or `xclose()` (R10; log 6). -/
inductive XportCall where
  | xopen (cfg : PortConfig) (verdict : Verdict)
  | xclose
  deriving DecidableEq, Repr

/-- What an agent presents: serialised bytes on a port (R79), with the port configuration that travels beside an OPEN
word (R74), the transport's verdict if the step asks for one (`none` leaves it free), and this input's place in the
interleaving where a request is held (log 3, 4, 5, 7). -/
structure Input where
  port : Port
  bytes : List Byte
  portCfg : PortConfig
  draw : Option Verdict
  /-- Whether a held request that has its step takes it before this input: the order of different agents is free, so
  both are allowed (R181; log 7), and both are allowed of the held host's own CLOSE (log 20). -/
  heldFirst : Bool
  deriving DecidableEq, Repr

/-- Why the machine stops with a fault. NO CONSTRUCTOR: no rule stops the block; its errors are records with their
recovery in the same step, and "It transfers no control" (R10, R178). -/
inductive Fault where
  deriving DecidableEq, Repr

/-- Why an instruction has no meaning. -/
inductive Refusal where
  /-- Raised by `exec`'s arm of an instruction with no meaning yet. Safe. No arm is left with it. -/
  | notModelled (mnemonic : String)
  /-- Raised by `step` on a word the decoder refuses: "A refused word is outside the step function" (R11), "The refusal is
  by name" (R81). Safe: the model stops where a realisation "may ignore such a word" (log 15). Bytes on `line` never raise
  it, unless there are none (R82). -/
  | reservedWord (e : DecodeError)
  /-- Raised by the meanings of the format N rows: "output records, which are never inputs" (R87). Safe (log 10). -/
  | outputRecord
  /-- Raised by the meanings of the format WIRE_REQ rows: a request frame is what the block puts on `tx` (R6), and no
  port of the block takes one. Safe (log 10). -/
  | requestFrame
  deriving DecidableEq, Repr

/-- The machine. The first five fields after `cfg` are the spec's state elements, "There is nothing else" (10_state.md);
`out` and `txlog` are its two histories (R27); the rest is the model's own, for the environment (INVENTORY.md). -/
structure State where
  /-- The parameters of R7, fixed when the block is built (R37); no step changes them (log 1). -/
  cfg : Config
  /-- `open` (R20). -/
  isOpen : Bool
  /-- `fsm` (R21). -/
  fsm : Fsm
  /-- `queue` (R22): head first. -/
  queue : List Entry
  /-- `rxbuf` (R24): first received byte first. -/
  rxbuf : List Byte
  /-- `tmr_cnt` (R25): TIME_TICK events left (log 9). -/
  tmrCnt : Nat
  /-- `OUT` (R27): oldest first. -/
  out : List Record
  /-- `TXLOG` (R27): oldest first. -/
  txlog : List TxEntry
  /-- What the agents present from now on, next first: one interleaving of their events (R181; log 3). -/
  inbox : List Input
  /-- The port configuration beside the host operation word (R74; log 5). -/
  portCfg : PortConfig
  /-- The transport's verdict for this step; `none` is a free value (R10; log 4). -/
  draw : Option Verdict
  /-- How many verdicts have been drawn: the argument of the free value (log 4). -/
  drawn : Nat
  /-- The calls on `xport_ctl`, oldest first (R6; log 6). -/
  xctl : List XportCall
  /-- The request held at a full queue, if any: a held host issues no second one (R11, R123; log 7). A list, so that
  `hold` loses nothing in a state no run reaches. -/
  held : List Entry
  deriving DecidableEq, Repr

/-- The machine right after reset: the values of R39, empty histories, the default parameters of R7, and nothing
presented yet (log 1, 3, 4, 5, 6, 7 for the model's own fields). -/
def State.reset : State where
  cfg := Config.default
  isOpen := false
  fsm := .idle
  queue := []
  rxbuf := []
  tmrCnt := 0
  out := []
  txlog := []
  inbox := []
  portCfg := ⟨0, 0, 0, 0, 0, 0⟩
  draw := none
  drawn := 0
  xctl := []
  held := []

/-- What a meaning answers. -/
abbrev Result := Host.Outcome State Fault Refusal

end Sys2Proof.Machine
end

