-- ==== Sys2Proof/Machine/Flags.lean ====
section
/-! DEFINITION. The block's flags and the conditions its rules test (10_state.md R36: "the block's flags are `open` and
`fsm`. There are no condition codes"). -/

namespace Sys2Proof.Machine

/-- `tmr_running` (R26), a derived signal. -/
def tmrRunning (s : State) : Bool := s.fsm == .await

/-- The guard of DISPATCH (R131): open, IDLE, and a command in the queue. -/
def canDispatch (s : State) : Bool := s.isOpen && !tmrRunning s && !s.queue.isEmpty

/-- `Q_DEPTH` is finite and |queue| = `Q_DEPTH` (R50, R123). -/
def queueFull (s : State) : Bool := s.cfg.qDepth == some s.queue.length

/-- A request has a step: the block is closed (NotOpen) or the queue has room (R123). -/
def requestHasStep (s : State) : Bool := !s.isOpen || !queueFull s

end Sys2Proof.Machine
end

