-- ==== Sys2Proof/Machine/Codec.lean ====
section
/-! DEFINITION. The Frame Codec (40_codec.md): digit helpers, Encode, TryDecode and VerifyChecksum. "the Codec is
stateless (pure function of its inputs)" (R112). Character values are ASCII (00_scope.md R13). -/

namespace Sys2Proof.Machine

/-- `*`, the first byte of every frame (R13, R70, R71). -/
def star : Byte := 0x2A#8

/-- `^`, the last byte of a response frame (R13, R71). -/
def caret : Byte := 0x5E#8

/-- `\r`, the last byte of a request frame (R13, R70). -/
def carriageReturn : Byte := 0x0D#8

/-- `hexlc` (R100): one lowercase hex digit. -/
def hexlc (v : BitVec 4) : Byte :=
  if v.toNat ≤ 9 then BitVec.ofNat 8 (0x30 + v.toNat) else BitVec.ofNat 8 (0x61 + (v.toNat - 10))

/-- `isHex` (R101): `0`-`9`, `A`-`F` or `a`-`f`. -/
def isHex (b : Byte) : Bool :=
  (0x30 ≤ b.toNat && b.toNat ≤ 0x39) || (0x41 ≤ b.toNat && b.toNat ≤ 0x46) || (0x61 ≤ b.toNat && b.toNat ≤ 0x66)

/-- `hexval` (R102), case-insensitive. The rule's domain is the bytes with `isHex`: "It is not applied to a non-hex
byte"; outside it this total function answers 0, which no caller sees. -/
def hexval (b : Byte) : Nat :=
  if 0x30 ≤ b.toNat ∧ b.toNat ≤ 0x39 then b.toNat - 0x30
  else if 0x41 ≤ b.toNat ∧ b.toNat ≤ 0x46 then b.toNat - 0x41 + 10
  else if 0x61 ≤ b.toNat ∧ b.toNat ≤ 0x66 then b.toNat - 0x61 + 10
  else 0

/-- `dec2` (R103): two decimal digits, most significant first. -/
def dec2 (c : Fin 100) : List Byte :=
  [BitVec.ofNat 8 (0x30 + c.val / 10), BitVec.ofNat 8 (0x30 + c.val % 10)]

/-- `hex4` (R104): four lowercase hex digits, most significant first. -/
def hex4 (p : Half) : List Byte :=
  [hexlc (p.extractLsb' 12 4), hexlc (p.extractLsb' 8 4), hexlc (p.extractLsb' 4 4), hexlc (p.extractLsb' 0 4)]

/-- `hex2` (R105): two lowercase hex digits, most significant first. -/
def hex2 (k : Byte) : List Byte :=
  [hexlc (k.extractLsb' 4 4), hexlc (k.extractLsb' 0 4)]

/-- `sum8` (R106): the sum of the bytes as unsigned integers, mod 256. -/
def sum8 (bs : List Byte) : Byte :=
  BitVec.ofNat 8 (bs.map BitVec.toNat).sum

/-- Hex digits read as an unsigned integer, most significant first (R110). -/
def hexNat (ds : List Byte) : Nat :=
  ds.foldl (fun acc b => 16 * acc + hexval b) 0

/-- `CMD_CODE[cmd]` (R72): 0 for NONE (R73), else the table's code. -/
def cmdCode (t : CmdCodes) : Command → Fin 100
  | .none => 0
  | .getTemp => t.getTemp
  | .getSetTemp => t.getSetTemp
  | .setTemp => t.setTemp
  | .getOutput => t.getOutput
  | .getSensorStatus => t.getSensorStatus
  | .setPowerStatus => t.setPowerStatus
  | .getPowerStatus => t.getPowerStatus

/-- The command tag of an output record: `CMD_CODE` of the command, as a byte (R80). -/
def cmdTag (t : CmdCodes) (c : Command) : Byte :=
  BitVec.ofNat 8 (cmdCode t c).val

/-- `Encode` (R107): the 10-byte request frame, with the checksum over the six characters between `*` and itself. -/
def encodeFrame (t : CmdCodes) (c : Command) (p : Half) : List Byte :=
  let body := dec2 (cmdCode t c) ++ hex4 p
  star :: body ++ hex2 (sum8 body) ++ [carriageReturn]

/-- The correct response frame for a value: what the pseudo-instruction RX_FRAME delivers (R86). -/
def responseFrame (v : Half) : List Byte :=
  star :: hex4 v ++ hex2 (sum8 (hex4 v)) ++ [caret]

/-- The three outcomes of TryDecode (R108). -/
inductive FrameShape where
  | incomplete
  | invalidShape
  | frame (d k : List Byte)
  deriving DecidableEq, Repr

/-- `shapeOK` (R108): the whole buffer is `*`, six hex digits and `^`. -/
def shapeOK (b : List Byte) : Bool :=
  b.length == 8 && b[0]? == some star && ((b.drop 1).take 6).all isHex && b[7]? == some caret

/-- `prefixOK` (R108): shorter than a frame, and every byte so far could begin one. -/
def prefixOK (b : List Byte) : Bool :=
  decide (b.length < 8) && (b.isEmpty || b[0]? == some star) && ((b.drop 1).take 6).all isHex

/-- `TryDecode` (R108): classify the whole buffer; a well-shaped one gives D = bytes 1..4 and K = bytes 5..6. -/
def tryDecode (b : List Byte) : FrameShape :=
  if shapeOK b then .frame ((b.drop 1).take 4) ((b.drop 5).take 2)
  else if prefixOK b then .incomplete
  else .invalidShape

/-- The two outcomes of VerifyChecksum (R110). -/
inductive Verification where
  | ok (v : Half)
  | mismatch
  deriving DecidableEq, Repr

/-- `VerifyChecksum` (R110): the sum of D's bytes as received against K read as hex; the value is D read as hex. -/
def verifyChecksum (d k : List Byte) : Verification :=
  if (sum8 d).toNat = hexNat k then .ok (BitVec.ofNat 16 (hexNat d)) else .mismatch

end Sys2Proof.Machine
end

