-- ==== Sys2Proof/Machine/Operands.lean ====
section
/-! DEFINITION. Operand assembly (30_encoding.md R76, R78), the command an event relates to (60_exceptions.md R171), and
the draws (00_scope.md R10). -/

namespace Sys2Proof.Machine

/-- The payload of SET_POWER_STATUS: `zext_16(b)`, "true is 1 and false is 0" (R76). -/
def powerPayload (b : Bool) : Half := (BitVec.ofBool b).setWidth 16

/-- The payload of every GET request: 0 "by rule, not by operand" (R76). -/
def zeroPayload : Half := 0#16

/-- The `detail` of a line error: the transport's 7-bit `kind` in 8 bits (R80, R156). -/
def faultDetail (kind : BitVec 7) : Byte := kind.setWidth 8

/-- The command of the queue's head, or NONE "if no command was pending" (R171; log 8). -/
def headCmd (s : State) : Command :=
  match s.queue with
  | e :: _ => e.cmd
  | [] => .none

/-- The tag of the queue's head: `CMD_CODE` of its command, 0 for NONE (R80, R171). -/
def headTag (s : State) : Byte := cmdTag s.cfg.cmdCode (headCmd s)

/-- The verdict the transport answers in this step: the input's, or a free value (R10; log 4). -/
def answer (s : State) : Verdict :=
  match s.draw with
  | some v => v
  | none => Config.freeVerdict s.drawn

end Sys2Proof.Machine
end

