-- ==== Sys2Proof/Machine/Ops.lean ====
section
/-! DEFINITION. The named operations over the state: the queue (R50-R53), the frame buffer (R55), the timer (R25), the
output stream (R10), the transport's ports (R6), and the local recovery that is this block's exception entry (R178). -/

namespace Sys2Proof.Machine

/-! ### Queue (20_memory.md section 1) -/

/-- `Enqueue(c, p)` (R50): append at the tail. -/
def enqueue (c : Command) (p : Half) (s : State) : State := { s with queue := s.queue ++ [⟨c, p⟩] }

/-- `PeekHead()` (R51). -/
def peekHead (s : State) : Option Entry := s.queue.head?

/-- `DropHead()` (R52): no effect on an empty queue. -/
def dropHead (s : State) : State := { s with queue := s.queue.tail }

/-- `Clear()` (R53). -/
def clearQueue (s : State) : State := { s with queue := [] }

/-- A request that finds the queue full has no step: it waits (R123; log 7). -/
def hold (c : Command) (p : Half) (s : State) : State := { s with held := s.held ++ [⟨c, p⟩] }

/-! ### Frame buffer (20_memory.md section 2) -/

/-- `Append(B)` (R55). -/
def appendBuf (bs : List Byte) (s : State) : State := { s with rxbuf := s.rxbuf ++ bs }

/-- `ClearBuf()` (R55). -/
def clearBuf (s : State) : State := { s with rxbuf := [] }

/-! ### Flags and timer -/

/-- `S.open <- b` (R20). -/
def setOpen (b : Bool) (s : State) : State := { s with isOpen := b }

/-- `S.fsm <- f` (R21). -/
def setFsm (f : Fsm) (s : State) : State := { s with fsm := f }

/-- `S.tmr_cnt <- n` (R25). -/
def setTimer (n : Nat) (s : State) : State := { s with tmrCnt := n }

/-! ### Ports -/

/-- `emit R` (R10): append a record to `host_out`. -/
def emit (r : Record) (s : State) : State := { s with out := s.out ++ [r] }

/-- `w <- send(F)` (R10): TXLOG gets the frame with the verdict drawn. -/
def send (f : List Byte) (s : State) : State :=
  { s with txlog := s.txlog ++ [⟨f, answer s⟩], drawn := s.drawn + 1 }

/-- `v <- xopen(cfg)` (R10): the port configuration goes to the transport unmodified (R120), with the verdict drawn. -/
def xopen (s : State) : State :=
  { s with xctl := s.xctl ++ [.xopen s.portCfg (answer s)], drawn := s.drawn + 1 }

/-- `xclose()` (R10). -/
def xclose (s : State) : State := { s with xctl := s.xctl ++ [.xclose] }

/-! ### Shared parts of the rules -/

/-- `S.fsm <- IDLE; S.tmr_cnt <- 0; Clear(); ClearBuf()`: what OPEN, CLOSE and reset have in common (R120, R121, R200). -/
def clearLink (s : State) : State := clearBuf (clearQueue (setTimer 0 (setFsm .idle s)))

/-- `raise <Kind>(cmd, detail)` (R10): a notification, not a trap. -/
def raiseError (k : ErrorKind) (c : Command) (detail : Byte) (s : State) : State :=
  emit (.nError k (cmdTag s.cfg.cmdCode c) detail) s

/-- Back to IDLE with the head resolved: DropHead, ClearBuf, timer stopped (R151, R152, R155, R156). -/
def resolveHead (s : State) : State := setTimer 0 (setFsm .idle (clearBuf (dropHead s)))

/-- TAKING AN ERROR, this block's exception entry (R170, R178): the error is raised with the head's command, or NONE, and
the same step recovers: drop the head, clear the buffer, stop the timer, IDLE. No state is saved, and there is no handler
and no return (R178, R180). -/
def takeError (k : ErrorKind) (detail : Byte) (s : State) : State :=
  resolveHead (raiseError k (headCmd s) detail s)

/-- `Request(c, p)` (R123): NotOpen while closed, held while a finite queue is full, else enqueued. -/
def request (c : Command) (p : Half) (s : State) : State :=
  if s.isOpen then
    if queueFull s then hold c p s else enqueue c p s
  else raiseError .notOpen c 0#8 s

/-- A well-shaped frame resolves the head (R150-R152): the timer is stopped, N_RAWFRAME is emitted first, then the
outcome of VerifyChecksum: the value with the head's command (R151), or a ChecksumMismatch (R152). -/
def resolveFrame (buf d k : List Byte) (s : State) : State :=
  let s1 := emit (.nRawFrame buf) (setTimer 0 s)
  match verifyChecksum d k with
  | .ok v => resolveHead (emit (.nValue v (headTag s1)) s1)
  | .mismatch => takeError .checksumMismatch 0#8 s1

/-- Received bytes (R150): discarded unless AWAIT; else appended, and the whole buffer tried once (R153, R159). -/
def receive (bs : List Byte) (s : State) : State :=
  if tmrRunning s then
    match tryDecode (s.rxbuf ++ bs) with
    | .frame d k => resolveFrame (s.rxbuf ++ bs) d k s
    | .incomplete => appendBuf bs s
    | .invalidShape => appendBuf bs s
  else s

/-- One TIME_TICK (R154): count down in AWAIT, and on 0 the timeout expires (R155). The counter is "never below 0"
(log 9). -/
def tick (s : State) : State :=
  if tmrRunning s then
    let s1 := setTimer (s.tmrCnt - 1) s
    if s1.tmrCnt = 0 then takeError .responseTimeout 0#8 s1 else s1
  else s

/-- A line error (R156), with N_FATAL after the N_ERROR if it is fatal (R157). -/
def lineFault (detail : Byte) (fatal : Bool) (s : State) : State :=
  let s1 := takeError .transportFault detail s
  if fatal then emit (.nFatal detail) s1 else s1

/-- OPEN (R120): no effect while open; else ask the transport, and on ok open with everything cleared. -/
def connect (s : State) : State :=
  if s.isOpen then s
  else match answer s with
    | .ok => clearLink (setOpen true (xopen s))
    | .fail => xopen s

/-- CLOSE (R121): tell the transport if open; closed, with everything pending discarded silently. -/
def disconnect (s : State) : State :=
  clearLink (setOpen false (if s.isOpen then xclose s else s))

/-- The dispatch tick (R131): under the guard, send the head's frame; on verdict ok, AWAIT with the timer loaded. -/
def transmit (s : State) : State :=
  if canDispatch s then
    match peekHead s with
    | some e =>
      let s1 := send (encodeFrame s.cfg.cmdCode e.cmd e.payload) s
      match answer s with
      | .ok => setTimer s.cfg.tTimeout (setFsm .await s1)
      | .fail => s1
    | none => s
  else s

end Sys2Proof.Machine
end

