-- ==== Sys2Proof/Machine/Lifecycle.lean ====
section
/-! DEFINITION. Lifecycle, query and reset: OPEN, CLOSE, IS_OPEN (41_host_ops.md R120-R122) and RESET
(70_reset_and_hazards.md R200). -/

namespace Sys2Proof.Machine

/-- OPEN (R120). -/
def execOpenLink (s : State) : Result := .next (connect s)

/-- CLOSE (R121). -/
def execCloseLink (s : State) : Result := .next (disconnect s)

/-- IS_OPEN (R122): one R_ISOPEN record. -/
def execIsOpen (s : State) : Result :=
  .next (emit (.rIsOpen s.isOpen) s)

/-- RESET (R200): every state element to its reset value; no record, no transport call, histories kept. -/
def execReset (s : State) : Result :=
  .next (clearLink (setOpen false s))

end Sys2Proof.Machine
end

