-- ==== Sys2Proof/Machine/Link.lean ====
section
/-! DEFINITION. The dispatch tick (41_host_ops.md R131), the transport and time-base events (42_transport_events.md
R150-R157), and the device's response frame (30_encoding.md R71). -/

namespace Sys2Proof.Machine

/-- DISPATCH (R131). -/
def execDispatch (s : State) : Result := .next (transmit s)

/-- RX_CHUNK (R150-R153). -/
def execRxChunk (bytes : List Byte) (s : State) : Result := .next (receive bytes s)

/-- LINE_ERROR (R156, R157). -/
def execLineError (kind : BitVec 7) (fatal : Bool) (s : State) : Result :=
  .next (lineFault (faultDetail kind) fatal s)

/-- TIME_TICK (R154, R155). -/
def execTimeTick (s : State) : Result := .next (tick s)

/-- WIRE_RESPONSE (R71): "The only way its bytes reach the block is as RX_CHUNK events" (R5); the whole frame as one
chunk, one of the splits R159 admits (log 11). -/
def execWireResponse (d0 d1 d2 d3 k0 k1 : Byte) (s : State) : Result :=
  .next (receive [star, d0, d1, d2, d3, k0, k1, caret] s)

end Sys2Proof.Machine
end

