-- ==== Sys2Proof/WellFormed.lean ====
section
/-! DEFINITION. Which terms of `Instr` some word spells: the checks that the types of the operands do not make already
(30_encoding.md R76, R78, R80, R71). -/

namespace Sys2Proof

/-- A chunk holds 1..255 bytes (R78), N_RAWFRAME carries 8 (R80), and the six bytes between the delimiters of a
response frame are hex digits (R71). Every other constructor's operands are in range by their types. -/
def Instr.wellFormed : Instr → Bool
  | .openLink => true
  | .closeLink => true
  | .isOpen => true
  | .setTemperature _ => true
  | .readTemperature => true
  | .readSetTemperature => true
  | .readOutput => true
  | .readSensorStatus => true
  | .setPowerStatus _ => true
  | .readPowerStatus => true
  | .dispatch => true
  | .rxChunk bytes => decide (1 ≤ bytes.length) && decide (bytes.length ≤ 255)
  | .lineError _ _ => true
  | .timeTick => true
  | .reset => true
  | .nValue _ _ => true
  | .nError _ _ _ => true
  | .nRawFrame frame => frame.length == 8
  | .nFatal _ => true
  | .rIsOpen _ => true
  | .wireNone _ => true
  | .wireGetTemp _ => true
  | .wireGetOutput _ => true
  | .wireGetSensorStatus _ => true
  | .wireGetSetTemp _ => true
  | .wireGetPowerStatus _ => true
  | .wireSetTemp _ => true
  | .wireSetPowerStatus _ => true
  | .wireResponse d0 d1 d2 d3 k0 k1 => [d0, d1, d2, d3, k0, k1].all Machine.isHex

end Sys2Proof
end

