-- ==== Sys2Proof/Decode.lean ====
section
/-! DEFINITION. The decoder of 30_encoding.md, total on any bytes, refusing by name (R81), and after it the encoder.
Words are serialised low byte first: byte k carries bits 8k+7..8k (R79); frames are byte 0 first (R57). -/

namespace Sys2Proof

/-- A 16-bit field from its high and low bytes (R79: the low byte is sent first). -/
def halfOf (hi lo : Byte) : Half := hi ++ lo

/-- The low byte of a 16-bit field. -/
def loByte (h : Half) : Byte := h.extractLsb' 0 8

/-- The high byte of a 16-bit field. -/
def hiByte (h : Half) : Byte := h.extractLsb' 8 8

/-- The host operations with no operand, by `opc` (R75); their `opnd` must be 0 (R76). -/
def bareHostOps : List (Byte × Instr) :=
  [(0x01#8, .openLink), (0x02#8, .closeLink), (0x03#8, .isOpen), (0x11#8, .readTemperature),
   (0x12#8, .readSetTemperature), (0x13#8, .readOutput), (0x14#8, .readSensorStatus), (0x16#8, .readPowerStatus),
   (0x20#8, .dispatch)]

/-- The host operation spelled by `opc` and `opnd` (R75, R76). -/
def decodeHostFields (opc : Byte) (opnd : Half) (rest : List Byte) : Decoded :=
  if opc = 0x10#8 then .word (.setTemperature opnd) rest
  else if opc = 0x15#8 then
    if opnd.extractLsb' 1 15 = 0#15 then .word (.setPowerStatus (opnd.getLsbD 0)) rest
    else .refused (.operandNotZero opc)
  else match bareHostOps.find? fun row => row.1 == opc with
    | some row => if opnd = 0#16 then .word row.2 rest else .refused (.operandNotZero opc)
    | none => .refused (.reservedOpc opc)

/-- Format H (R74): `opc`, then `opnd` low byte first. -/
def decodeHost : List Byte → Decoded
  | opc :: lo :: hi :: rest => decodeHostFields opc (halfOf hi lo) rest
  | _ => .refused .truncated

/-- The first `n` bytes as the bytes of a chunk, if there are so many. -/
def decodeChunk (n : Nat) (rest : List Byte) : Decoded :=
  if n = 0 then .refused .emptyChunk
  else if rest.length < n then .refused .truncated
  else .word (.rxChunk (rest.take n)) (rest.drop n)

/-- The event spelled by `evc` and the two bytes of `arg` (R78). -/
def decodeEventFields (evc lo hi : Byte) (rest : List Byte) : Decoded :=
  if evc = 0x40#8 then
    if hi = 0#8 then decodeChunk lo.toNat rest else .refused (.argNotZero evc)
  else if evc = 0x41#8 then
    if hi = 0#8 then .word (.lineError (lo.extractLsb' 0 7) (lo.getLsbD 7)) rest else .refused (.argNotZero evc)
  else if evc = 0x42#8 then
    if halfOf hi lo = 0#16 then .word .timeTick rest else .refused (.argNotZero evc)
  else .refused (.reservedEvc evc)

/-- Format E (R77): `evc`, then `arg` low byte first, then the trailing bytes of an RX_CHUNK (R79). -/
def decodeEvent : List Byte → Decoded
  | evc :: lo :: hi :: rest => decodeEventFields evc lo hi rest
  | _ => .refused .truncated

/-- The reset pin: the byte 0x01 spells "asserted" (log 12). -/
def decodeReset : List Byte → Decoded
  | b :: rest => if b = 0x01#8 then .word .reset rest else .refused .resetNotAsserted
  | [] => .refused .truncated

/-- The output record spelled by the four bytes of its word, low byte first (R80). -/
def decodeRecordFields (tag b1 b2 b3 : Byte) (rest : List Byte) : Decoded :=
  if tag = 0x80#8 then .word (.nValue b1 (halfOf b3 b2)) rest
  else if tag = 0x81#8 then .word (.nError b1 b2 b3) rest
  else if tag = 0x82#8 then
    if b1 = 0#8 ∧ b2 = 0#8 ∧ b3 = 0#8 then
      if rest.length < 8 then .refused .truncated
      else .word (.nRawFrame (rest.take 8)) (rest.drop 8)
    else .refused (.recordFieldNotZero tag)
  else if tag = 0x83#8 then
    if b1 = 0#8 ∧ b2 = 0#8 then .word (.nFatal b3) rest else .refused (.recordFieldNotZero tag)
  else if tag = 0x84#8 then
    if b1.extractLsb' 1 7 = 0#7 ∧ b2 = 0#8 ∧ b3 = 0#8 then .word (.rIsOpen (b1.getLsbD 0)) rest
    else .refused (.recordFieldNotZero tag)
  else .refused (.reservedTag tag)

/-- Format N (R80), for decoding `host_out` (R87). -/
def decodeRecord : List Byte → Decoded
  | tag :: b1 :: b2 :: b3 :: rest => decodeRecordFields tag b1 b2 b3 rest
  | _ => .refused .truncated

/-- The request frames of the opcode table, by command, each with the table's code (R72). -/
def wireInstr (c : Command) (p : Half) : Instr :=
  match c with
  | .none => .wireNone p
  | .getTemp => .wireGetTemp p
  | .getSetTemp => .wireGetSetTemp p
  | .setTemp => .wireSetTemp p
  | .getOutput => .wireGetOutput p
  | .getSensorStatus => .wireGetSensorStatus p
  | .setPowerStatus => .wireSetPowerStatus p
  | .getPowerStatus => .wireGetPowerStatus p

/-- The eight commands, in the order of R28. -/
def allCommands : List Command :=
  [.none, .getTemp, .getSetTemp, .setTemp, .getOutput, .getSensorStatus, .setPowerStatus, .getPowerStatus]

/-- The command whose two code digits stand in bytes 1 and 2 of a request frame, by the table of R72. -/
def commandOfDigits (cc : List Byte) : Option Command :=
  allCommands.find? fun c => Machine.dec2 (Machine.cmdCode CmdCodes.default c) == cc

/-- Ten bytes as a request frame: the frame of the command its digits name and of the payload its digits spell, or
none; so the digits are lowercase and the checksum is right (R70). -/
def decodeFrame (f : List Byte) : Option Instr :=
  match commandOfDigits ((f.drop 1).take 2) with
  | some c =>
    let p : Half := BitVec.ofNat 16 (Machine.hexNat ((f.drop 3).take 4))
    if Machine.encodeFrame CmdCodes.default c p = f then some (wireInstr c p) else none
  | none => none

/-- Format WIRE_REQ: ten bytes of `tx` (R70). -/
def decodeRequest (bs : List Byte) : Decoded :=
  if bs.length < 10 then .refused .truncated
  else match decodeFrame (bs.take 10) with
    | some i => .word i (bs.drop 10)
    | none => .refused .notARequestFrame

/-- Format WIRE_RSP: eight bytes, `*`, six hex digits, `^` (R71). What is no such frame is no word of this row; a step receives
its bytes as an RX_CHUNK (R82, `Machine.readInput`; log 11). -/
def decodeResponse : List Byte → Decoded
  | s :: d0 :: d1 :: d2 :: d3 :: k0 :: k1 :: e :: rest =>
    if s = Machine.star ∧ e = Machine.caret ∧ [d0, d1, d2, d3, k0, k1].all Machine.isHex = true
    then .word (.wireResponse d0 d1 d2 d3 k0 k1) rest
    else .refused .notAResponseFrame
  | _ => .refused .truncated

/-- The decoder: the first word of the bytes on a port, and the bytes after it. -/
def decode (p : Port) (bs : List Byte) : Decoded :=
  match p with
  | .hostOp => decodeHost bs
  | .rxEv => decodeEvent bs
  | .rst => decodeReset bs
  | .hostOut => decodeRecord bs
  | .tx => decodeRequest bs
  | .line => decodeResponse bs

/-- R79: how many bytes the word has whose first bytes are given; a decoder reads `evc` first, then `arg`. -/
def wordLength (p : Port) (bs : List Byte) : Nat :=
  match p, bs with
  | .hostOp, _ => 3
  | .rxEv, evc :: n :: _ => if evc = 0x40#8 then 3 + n.toNat else 3
  | .rxEv, _ => 3
  | .rst, _ => 1
  | .hostOut, tag :: _ => if tag = 0x82#8 then 12 else 4
  | .hostOut, [] => 4
  | .tx, _ => 10
  | .line, _ => 8

/-! ### The encoder -/

/-- The port a word of this instruction stands on (R6, R75, R78, R80). -/
def Instr.port : Instr → Port
  | .openLink => .hostOp
  | .closeLink => .hostOp
  | .isOpen => .hostOp
  | .setTemperature _ => .hostOp
  | .readTemperature => .hostOp
  | .readSetTemperature => .hostOp
  | .readOutput => .hostOp
  | .readSensorStatus => .hostOp
  | .setPowerStatus _ => .hostOp
  | .readPowerStatus => .hostOp
  | .dispatch => .hostOp
  | .rxChunk _ => .rxEv
  | .lineError _ _ => .rxEv
  | .timeTick => .rxEv
  | .reset => .rst
  | .nValue _ _ => .hostOut
  | .nError _ _ _ => .hostOut
  | .nRawFrame _ => .hostOut
  | .nFatal _ => .hostOut
  | .rIsOpen _ => .hostOut
  | .wireNone _ => .tx
  | .wireGetTemp _ => .tx
  | .wireGetOutput _ => .tx
  | .wireGetSensorStatus _ => .tx
  | .wireGetSetTemp _ => .tx
  | .wireGetPowerStatus _ => .tx
  | .wireSetTemp _ => .tx
  | .wireSetPowerStatus _ => .tx
  | .wireResponse _ _ _ _ _ _ => .line

/-- A 24-bit word of format H or E, low byte first (R79). -/
def wordBytes (code : Byte) (field : Half) : List Byte :=
  [code, loByte field, hiByte field]

/-- One bit as a byte, in bit 0. -/
def bitByte (b : Bool) : Byte := if b then 1#8 else 0#8

/-- The words of an instruction, from the tables of R72, R74-R80 and R70, R71. -/
def encode : Instr → List Byte
  | .openLink => wordBytes 0x01#8 0#16
  | .closeLink => wordBytes 0x02#8 0#16
  | .isOpen => wordBytes 0x03#8 0#16
  | .setTemperature payload => wordBytes 0x10#8 payload
  | .readTemperature => wordBytes 0x11#8 0#16
  | .readSetTemperature => wordBytes 0x12#8 0#16
  | .readOutput => wordBytes 0x13#8 0#16
  | .readSensorStatus => wordBytes 0x14#8 0#16
  | .setPowerStatus b => [0x15#8, bitByte b, 0#8]
  | .readPowerStatus => wordBytes 0x16#8 0#16
  | .dispatch => wordBytes 0x20#8 0#16
  | .rxChunk bytes => [0x40#8, BitVec.ofNat 8 bytes.length, 0#8] ++ bytes
  | .lineError kind fatal => [0x41#8, BitVec.ofBool fatal ++ kind, 0#8]
  | .timeTick => wordBytes 0x42#8 0#16
  | .reset => [0x01#8]
  | .nValue cmd value => [0x80#8, cmd, loByte value, hiByte value]
  | .nError cmd kind detail => [0x81#8, cmd, kind, detail]
  | .nRawFrame frame => [0x82#8, 0#8, 0#8, 0#8] ++ frame
  | .nFatal detail => [0x83#8, 0#8, 0#8, detail]
  | .rIsOpen b => [0x84#8, bitByte b, 0#8, 0#8]
  | .wireNone p => Machine.encodeFrame CmdCodes.default .none p
  | .wireGetTemp p => Machine.encodeFrame CmdCodes.default .getTemp p
  | .wireGetOutput p => Machine.encodeFrame CmdCodes.default .getOutput p
  | .wireGetSensorStatus p => Machine.encodeFrame CmdCodes.default .getSensorStatus p
  | .wireGetSetTemp p => Machine.encodeFrame CmdCodes.default .getSetTemp p
  | .wireGetPowerStatus p => Machine.encodeFrame CmdCodes.default .getPowerStatus p
  | .wireSetTemp p => Machine.encodeFrame CmdCodes.default .setTemp p
  | .wireSetPowerStatus p => Machine.encodeFrame CmdCodes.default .setPowerStatus p
  | .wireResponse d0 d1 d2 d3 k0 k1 => [Machine.star, d0, d1, d2, d3, k0, k1, Machine.caret]

/-! ### Words numbered as the opcode table numbers them (log 14) -/

/-- The `k` low bytes of `w`, lowest first. -/
def littleEndian : Nat → Nat → List Byte
  | 0, _ => []
  | k + 1, w => BitVec.ofNat 8 w :: littleEndian k (w / 256)

/-- How many bytes hold `nbits` bits. -/
def tableByteCount (nbits : Nat) : Nat := (nbits + 7) / 8

/-- The port of a table row, told by its width and, for the two 24-bit formats, by the code ranges of R87. -/
def tablePort (nbits w : Nat) : Port :=
  if tableByteCount nbits = 1 then .rst
  else if tableByteCount nbits = 4 then .hostOut
  else if tableByteCount nbits = 8 then .line
  else if tableByteCount nbits = 10 then .tx
  else if 0x40 ≤ w % 256 ∧ w % 256 ≤ 0x42 then .rxEv
  else .hostOp

/-- The bytes of a table word: low byte first (R79), but the two frame formats have "byte 0 most significant" (R87). -/
def tableWordBytes (nbits w : Nat) : List Byte :=
  if tablePort nbits w = .line ∨ tablePort nbits w = .tx then (littleEndian (tableByteCount nbits) w).reverse
  else littleEndian (tableByteCount nbits) w

/-- The same, with the instruction's bytes above `nbits` (R79: trailing bytes) as zeros. -/
def tableBytes (nbits w : Nat) : List Byte :=
  let bs := tableWordBytes nbits w
  bs ++ List.replicate (wordLength (tablePort nbits w) bs - bs.length) 0#8

/-- The instruction the decoder reads from a word numbered as spec/opcode_table.json numbers it. -/
def decodeTableWord (nbits w : Nat) : Option Instr :=
  match decode (tablePort nbits w) (tableBytes nbits w) with
  | .word i _ => some i
  | .refused _ => none

end Sys2Proof
end

