-- ==== Sys2Proof/Machine/Outputs.lean ====
section
/-! DEFINITION. The rows of the opcode table that are outputs of the block: the output records (30_encoding.md R80) as words,
and the meanings of format N and WIRE_REQ words met as inputs, which R87 rules out by name. -/

namespace Sys2Proof.Machine

/-- The code of an error kind (R84). -/
def ErrorKind.code : ErrorKind → Byte
  | .notOpen => 0x01#8
  | .checksumMismatch => 0x02#8
  | .responseTimeout => 0x03#8
  | .transportFault => 0x04#8

/-- The row of the opcode table a record is a word of (R80). -/
def Record.instr : Record → Instr
  | .nValue value cmd => .nValue cmd value
  | .nError kind cmd detail => .nError cmd kind.code detail
  | .nRawFrame frame => .nRawFrame frame
  | .nFatal detail => .nFatal detail
  | .rIsOpen b => .rIsOpen b

/-- A record as the bytes of `host_out`: its word low byte first, then the frame bytes of N_RAWFRAME (R79, R80). -/
def Record.words (r : Record) : List Byte := encode r.instr

/-- N_VALUE as an input: refused, "output records, which are never inputs" (R87; log 10). -/
def execNValue (_cmd : Byte) (_value : Half) (_s : State) : Result := .refused .outputRecord

/-- N_ERROR as an input: refused, "output records, which are never inputs" (R87; log 10). -/
def execNError (_cmd _kind _detail : Byte) (_s : State) : Result := .refused .outputRecord

/-- N_RAWFRAME as an input: refused, "output records, which are never inputs" (R87; log 10). -/
def execNRawFrame (_frame : List Byte) (_s : State) : Result := .refused .outputRecord

/-- N_FATAL as an input: refused, "output records, which are never inputs" (R87; log 10). -/
def execNFatal (_detail : Byte) (_s : State) : Result := .refused .outputRecord

/-- R_ISOPEN as an input: refused, "output records, which are never inputs" (R87; log 10). -/
def execRIsOpen (_b : Bool) (_s : State) : Result := .refused .outputRecord

/-- WIRE_NONE as an input: refused, a request frame leaves on `tx` (R6, R87; log 10). -/
def execWireNone (_payload : Half) (_s : State) : Result := .refused .requestFrame

/-- WIRE_GET_TEMP as an input: refused, a request frame leaves on `tx` (R6, R87; log 10). -/
def execWireGetTemp (_payload : Half) (_s : State) : Result := .refused .requestFrame

/-- WIRE_GET_OUTPUT as an input: refused, a request frame leaves on `tx` (R6, R87; log 10). -/
def execWireGetOutput (_payload : Half) (_s : State) : Result := .refused .requestFrame

/-- WIRE_GET_SENSOR_STATUS as an input: refused, a request frame leaves on `tx` (R6, R87; log 10). -/
def execWireGetSensorStatus (_payload : Half) (_s : State) : Result := .refused .requestFrame

/-- WIRE_GET_SET_TEMP as an input: refused, a request frame leaves on `tx` (R6, R87; log 10). -/
def execWireGetSetTemp (_payload : Half) (_s : State) : Result := .refused .requestFrame

/-- WIRE_GET_POWER_STATUS as an input: refused, a request frame leaves on `tx` (R6, R87; log 10). -/
def execWireGetPowerStatus (_payload : Half) (_s : State) : Result := .refused .requestFrame

/-- WIRE_SET_TEMP as an input: refused, a request frame leaves on `tx` (R6, R87; log 10). -/
def execWireSetTemp (_payload : Half) (_s : State) : Result := .refused .requestFrame

/-- WIRE_SET_POWER_STATUS as an input: refused, a request frame leaves on `tx` (R6, R87; log 10). -/
def execWireSetPowerStatus (_payload : Half) (_s : State) : Result := .refused .requestFrame

end Sys2Proof.Machine
end

