-- ==== Sys2Proof/Machine/Requests.lean ====
section
/-! DEFINITION. The seven command requests (41_host_ops.md R124-R130), each `Request(c, p)` of R123 with its own command
and payload. -/

namespace Sys2Proof.Machine

/-- SET_TEMPERATURE (R124): the operand is the payload, uninterpreted. -/
def execSetTemperature (payload : Half) (s : State) : Result := .next (request .setTemp payload s)

/-- READ_TEMPERATURE (R125). -/
def execReadTemperature (s : State) : Result := .next (request .getTemp zeroPayload s)

/-- READ_SET_TEMPERATURE (R126). -/
def execReadSetTemperature (s : State) : Result := .next (request .getSetTemp zeroPayload s)

/-- READ_OUTPUT (R127). -/
def execReadOutput (s : State) : Result := .next (request .getOutput zeroPayload s)

/-- READ_SENSOR_STATUS (R128). -/
def execReadSensorStatus (s : State) : Result := .next (request .getSensorStatus zeroPayload s)

/-- SET_POWER_STATUS (R129). -/
def execSetPowerStatus (b : Bool) (s : State) : Result := .next (request .setPowerStatus (powerPayload b) s)

/-- READ_POWER_STATUS (R130). -/
def execReadPowerStatus (s : State) : Result := .next (request .getPowerStatus zeroPayload s)

end Sys2Proof.Machine
end

