-- ==== Sys2Proof/Machine/Dispatch.lean ====
section
/-! DEFINITION. One arm per row of the opcode table. -/

namespace Sys2Proof.Machine

def exec (i : Instr) (s : State) : Host.Outcome State Fault Refusal :=
  match i with
  | .openLink => Sys2Proof.Machine.execOpenLink s
  | .closeLink => Sys2Proof.Machine.execCloseLink s
  | .isOpen => Sys2Proof.Machine.execIsOpen s
  | .setTemperature payload => Sys2Proof.Machine.execSetTemperature payload s
  | .readTemperature => Sys2Proof.Machine.execReadTemperature s
  | .readSetTemperature => Sys2Proof.Machine.execReadSetTemperature s
  | .readOutput => Sys2Proof.Machine.execReadOutput s
  | .readSensorStatus => Sys2Proof.Machine.execReadSensorStatus s
  | .setPowerStatus b => Sys2Proof.Machine.execSetPowerStatus b s
  | .readPowerStatus => Sys2Proof.Machine.execReadPowerStatus s
  | .dispatch => Sys2Proof.Machine.execDispatch s
  | .rxChunk bytes => Sys2Proof.Machine.execRxChunk bytes s
  | .lineError kind fatal => Sys2Proof.Machine.execLineError kind fatal s
  | .timeTick => Sys2Proof.Machine.execTimeTick s
  | .reset => Sys2Proof.Machine.execReset s
  | .nValue cmd value => Sys2Proof.Machine.execNValue cmd value s
  | .nError cmd kind detail => Sys2Proof.Machine.execNError cmd kind detail s
  | .nRawFrame frame => Sys2Proof.Machine.execNRawFrame frame s
  | .nFatal detail => Sys2Proof.Machine.execNFatal detail s
  | .rIsOpen b => Sys2Proof.Machine.execRIsOpen b s
  | .wireNone payload => Sys2Proof.Machine.execWireNone payload s
  | .wireGetTemp payload => Sys2Proof.Machine.execWireGetTemp payload s
  | .wireGetOutput payload => Sys2Proof.Machine.execWireGetOutput payload s
  | .wireGetSensorStatus payload => Sys2Proof.Machine.execWireGetSensorStatus payload s
  | .wireGetSetTemp payload => Sys2Proof.Machine.execWireGetSetTemp payload s
  | .wireGetPowerStatus payload => Sys2Proof.Machine.execWireGetPowerStatus payload s
  | .wireSetTemp payload => Sys2Proof.Machine.execWireSetTemp payload s
  | .wireSetPowerStatus payload => Sys2Proof.Machine.execWireSetPowerStatus payload s
  | .wireResponse d0 d1 d2 d3 k0 k1 => Sys2Proof.Machine.execWireResponse d0 d1 d2 d3 k0 k1 s

end Sys2Proof.Machine
end

