-- ==== Sys2Proof/Machine/Fetch.lean ====
section
/-! DEFINITION. What the next step is about: the next word an agent presents (R5, R79, R181), a held request that has its
step again (R11, R123), or nothing (R191). -/

namespace Sys2Proof.Machine

/-- What the block finds to do. -/
inductive Fetched where
  /-- No event: the block idles (R191). -/
  | idle
  /-- A held request is taken: the state without it, its command and payload. -/
  | heldRequest (e : Entry) (s : State)
  /-- A word the decoder refuses (R81). -/
  | refused (e : DecodeError)
  /-- An instruction, and the state with its word taken from the inbox. -/
  | instr (i : Instr) (s : State)
  deriving DecidableEq, Repr

/-- The next input of the inbox that may take its step: the inputs of a held host that wait before it, and the inputs
after it. -/
structure Chosen where
  passed : List Input
  inp : Input
  later : List Input
  deriving DecidableEq, Repr

/-- The held request has its step: "held until a step of another agent makes room" (R123), or the block is closed. -/
def heldReady (s : State) : Bool := !s.held.isEmpty && requestHasStep s

/-- Bytes received on the serial link as an RX_CHUNK: the first 255 of them at most, which is what one chunk carries (R78), and
the rest; no byte at all is no event. -/
def rawChunk (bs : List Byte) : Decoded :=
  if bs.isEmpty then .refused .truncated else .word (.rxChunk (bs.take 255)) (bs.drop 255)

/-- What an input says: the word its bytes spell on its port. On the model's port `line`, bytes that are no well-shaped
response frame are received all the same: "Wire-level malformed input is not an illegal encoding", it "stays in `rxbuf`"
(R82), and it reaches the block as RX_CHUNK events (R5). How it is cut into chunks is the model's choice (DESIGN CHOICE,
log 11). -/
def readInput (inp : Input) : Decoded :=
  match decode inp.port inp.bytes with
  | .word i rest => .word i rest
  | .refused e => if inp.port = .line then rawChunk inp.bytes else .refused e

/-- The next word of an input spells this instruction. -/
def spells (inp : Input) (i : Instr) : Bool :=
  match decode inp.port inp.bytes with
  | .word j _ => j == i
  | .refused _ => false

/-- An input of an agent other than the host: any port but `host_op`, and DISPATCH, which is the dispatch trigger's (R5).
That DISPATCH on `host_op` is always the trigger's is the model's choice, "The host may play this role" (DESIGN CHOICE,
log 20). -/
def otherAgent (inp : Input) : Bool := inp.port != .hostOp || spells inp .dispatch

/-- WHICH WORDS A HELD HOST MAY STILL ISSUE. "the host agent is held until the queue has room" (R11), yet R123 names a
CLOSE, the host's operation (R5), among the steps that make room. The spec leaves the rest open; the model lets a held
host issue CLOSE and nothing else: its OPEN, IS_OPEN, requests and reserved words wait, in their order, and a CLOSE behind
one of them (`behind`) waits with it (DESIGN CHOICE, log 20). Every other agent goes on. -/
def mayStep (waiting behind : Bool) (inp : Input) : Bool :=
  !waiting || otherAgent inp || (!behind && spells inp .closeLink)

/-- The first input that may take its step, passing over those of a held host that wait. -/
def firstChosen (waiting behind : Bool) : List Input → Option Chosen
  | [] => none
  | inp :: later =>
    if mayStep waiting behind inp then some ⟨[], inp, later⟩
    else (firstChosen waiting true later).map fun c => { c with passed := inp :: c.passed }

/-- The input whose step is next in this state: the host waits while a request is held (R11). -/
def chosen (s : State) : Option Chosen := firstChosen (!s.held.isEmpty) false s.inbox

/-- The held request goes now: it has its step, and the next input lets it go first or there is none (R181; log 7). The next
input may be the host's own CLOSE: whether that may go before the host's earlier request once the queue has room again the
spec leaves open, and the model allows both orders (DESIGN CHOICE, log 20); after such a CLOSE the request reports NotOpen. -/
def heldGoes (s : State) : Bool :=
  heldReady s && match chosen s with
    | some c => c.inp.heldFirst
    | none => true

/-- The inbox without the word just read: the bytes after it on the same port stay next (log 13). -/
def restOfInbox (inp : Input) (rest : List Byte) (later : List Input) : List Input :=
  if rest.isEmpty then later else { inp with bytes := rest } :: later

/-- The state with an input's word taken and its side signals on the ports (R74, R10). -/
def takeInput (c : Chosen) (rest : List Byte) (s : State) : State :=
  { s with inbox := c.passed ++ restOfInbox c.inp rest c.later, portCfg := c.inp.portCfg, draw := c.inp.draw }

/-- Find the next thing to do. -/
def fetch (s : State) : Fetched :=
  match heldGoes s, s.held with
  | true, e :: later => .heldRequest e { s with held := later }
  | _, _ =>
    match chosen s with
    | none => .idle
    | some c =>
      match readInput c.inp with
      | .word i rest => .instr i (takeInput c rest s)
      | .refused e => .refused e

/-- The state with a word presented next on a port, ahead of everything else and of a held request; the held request is
dropped only if it makes this very word wait. The side signals stay as they stand. -/
def presentNext (p : Port) (bs : List Byte) (s : State) : State :=
  let inp : Input := ⟨p, bs, s.portCfg, s.draw, false⟩
  { s with
    inbox := inp :: s.inbox
    held := if mayStep (!s.held.isEmpty) false inp then s.held else [] }

end Sys2Proof.Machine
end

