-- ==== Sys2Proof/Machine/Step.lean ====
section
/-! DEFINITION. One step (00_scope.md R2, R11): one event, handled whole. -/

namespace Sys2Proof.Machine

/-- One step of the machine: run the instruction the next word spells; take a held request that has its step; idle when
nothing is presented that may take its step; refuse a reserved word by name (R11, R81). -/
def step (s : State) : Host.Outcome State Fault Refusal :=
  match fetch s with
  | .idle => .next s
  | .heldRequest e s' => .next (request e.cmd e.payload s')
  | .refused e => .refused (.reservedWord e)
  | .instr i s' => exec i s'

/-- `s` with the table word presented where `step` takes its next instruction: at the front of the inbox, on the word's
port. It stands for an agent presenting it (log 3, log 14). -/
def State.withFetchWord (s : State) (nbits w : Nat) : State :=
  presentNext (tablePort nbits w) (tableBytes nbits w) s

end Sys2Proof.Machine
end

