-- ==== Sys2Proof/Safety.lean ====
section
/-! DEFINITION. The terms claims use: the block's own state beside the model's, what an instruction makes of it, the table
of command requests, the records one event may emit, and the invariant of 10_state.md section 2. -/

namespace Sys2Proof.Machine

/-- What the spec gives the block: its five state elements (R20-R25) and its two output histories (R27). -/
structure Block where
  isOpen : Bool
  fsm : Fsm
  queue : List Entry
  rxbuf : List Byte
  tmrCnt : Nat
  out : List Record
  txlog : List TxEntry
  deriving DecidableEq, Repr

/-- The block inside a state of the model. -/
def State.block (s : State) : Block :=
  ⟨s.isOpen, s.fsm, s.queue, s.rxbuf, s.tmrCnt, s.out, s.txlog⟩

/-- `exec i s` answers a next state, and the block in it is `b`. -/
def Becomes (i : Instr) (s : State) (b : Block) : Prop :=
  ∃ t, exec i s = .next t ∧ t.block = b

/-- The closed and cleared block, its histories kept (R39, R121, R200). -/
def Block.cleared (b : Block) : Block :=
  { b with isOpen := false, fsm := .idle, queue := [], rxbuf := [], tmrCnt := 0 }

/-- The command requests of R124-R130: operation code, operand, command and payload. -/
def requestRow : Instr → Option (Byte × Half × Command × Half)
  | .setTemperature p => some (0x10#8, p, .setTemp, p)
  | .readTemperature => some (0x11#8, 0#16, .getTemp, 0#16)
  | .readSetTemperature => some (0x12#8, 0#16, .getSetTemp, 0#16)
  | .readOutput => some (0x13#8, 0#16, .getOutput, 0#16)
  | .readSensorStatus => some (0x14#8, 0#16, .getSensorStatus, 0#16)
  | .setPowerStatus b => some (0x15#8, if b then 1#16 else 0#16, .setPowerStatus, if b then 1#16 else 0#16)
  | .readPowerStatus => some (0x16#8, 0#16, .getPowerStatus, 0#16)
  | .openLink => none
  | .closeLink => none
  | .isOpen => none
  | .dispatch => none
  | .rxChunk _ => none
  | .lineError _ _ => none
  | .timeTick => none
  | .reset => none
  | .nValue _ _ => none
  | .nError _ _ _ => none
  | .nRawFrame _ => none
  | .nFatal _ => none
  | .rIsOpen _ => none
  | .wireNone _ => none
  | .wireGetTemp _ => none
  | .wireGetOutput _ => none
  | .wireGetSensorStatus _ => none
  | .wireGetSetTemp _ => none
  | .wireGetPowerStatus _ => none
  | .wireSetTemp _ => none
  | .wireSetPowerStatus _ => none
  | .wireResponse _ _ _ _ _ _ => none

/-- The events by which received bytes reach the block (R150), the response frame's row among them (log 11). -/
def ReceivesBytes (i : Instr) : Prop :=
  (∃ bs, i = .rxChunk bs) ∨ ∃ d0 d1 d2 d3 k0 k1, i = .wireResponse d0 d1 d2 d3 k0 k1

/-- The record sequences one event may emit, in their order (R182): none, one, a raw frame with its outcome, or a
transport fault with its fatal notice. -/
inductive EventRecords : List Record → Prop where
  | nothing : EventRecords []
  | error (k : ErrorKind) (c d : Byte) : EventRecords [.nError k c d]
  | openReport (b : Bool) : EventRecords [.rIsOpen b]
  | value (f : List Byte) (v : Half) (c : Byte) : EventRecords [.nRawFrame f, .nValue v c]
  | mismatch (f : List Byte) (c : Byte) : EventRecords [.nRawFrame f, .nError .checksumMismatch c 0#8]
  | fatal (c d : Byte) : EventRecords [.nError .transportFault c d, .nFatal d]

/-- `inp` is the next input to take its step: the first of the inbox, or, while a request is held, the first that is not a
waiting word of the held host, `passed` being those that wait. A held host's CLOSE takes its step if nothing of the host
waits before it (R11, R123, R181; log 20). -/
def NextInput (s : State) (passed : List Input) (inp : Input) (later : List Input) : Prop :=
  s.inbox = passed ++ inp :: later ∧
  ((s.held = [] ∧ passed = []) ∨
   (s.held ≠ [] ∧ passed = [] ∧ spells inp .closeLink = true) ∨
   (s.held ≠ [] ∧ otherAgent inp = true ∧ (∀ w ∈ passed, otherAgent w = false) ∧
    ∀ w ∈ passed.head?, spells w .closeLink = false))

/-- `n` TIME_TICK events in a row. -/
def execTicks : Nat → State → Result
  | 0, s => .next s
  | n + 1, s =>
    match exec .timeTick s with
    | .next t => execTicks n t
    | .fault r => .fault r
    | .refused r => .refused r

/-- The invariants of 10_state.md section 2 (R30-R33), with what R7, R22 and R23 ask of the parameters and the queue, and
what holds of the held request (log 7). -/
structure BlockInv (s : State) : Prop where
  /-- The parameters are legal (R7, R73). -/
  config : s.cfg.WellFormed
  /-- "Closed implies empty" (R30). -/
  closed : s.isOpen = false → s.fsm = .idle ∧ s.queue = [] ∧ s.rxbuf = [] ∧ s.tmrCnt = 0
  /-- "Awaiting implies an in-flight head" (R31). -/
  awaiting : s.fsm = .await → s.isOpen = true ∧ s.queue ≠ [] ∧ 1 ≤ s.tmrCnt ∧ s.tmrCnt ≤ s.cfg.tTimeout
  /-- "Idle implies an empty buffer and a stopped timer" (R32). -/
  idle : s.fsm = .idle → s.rxbuf = [] ∧ s.tmrCnt = 0
  /-- In AWAIT, `rxbuf` is not a well-shaped frame (R33). -/
  noFrame : s.fsm = .await → shapeOK s.rxbuf = false
  /-- NONE is never enqueued (R23), nor held. -/
  commands : ∀ e ∈ s.queue ++ s.held, e.cmd ≠ .none
  /-- The capacity of the queue (R22). -/
  depth : ∀ d, s.cfg.qDepth = some d → s.queue.length ≤ d
  /-- Only a finite queue makes a request wait (R123). -/
  heldOnlyIfFinite : s.held ≠ [] → s.cfg.qDepth ≠ none
  /-- A held host issues no second request (R11). -/
  heldAtMostOne : s.held.length ≤ 1

end Sys2Proof.Machine
end

