-- ==== Sys2Proof/Certificates/Slice0/Obligations.lean ====
section
/-! DEFINITION. The statements for the provers, from the numbered rules of spec/. `Becomes i s b` says that `exec i s` answers a
next state whose block (the five state elements, OUT and TXLOG) is `b`; so each such statement is the instruction's result,
its frame on the block and its completion at once. The frame on the model's own fields is `ExecKeepsEnvironment`. -/

open Sys2Proof Sys2Proof.Machine

/-! ### Encodings and the step -/

/-- 30_encoding.md and 95_test_vectors.md: a few words written out from the encodings decode to what they stand for. Two clauses are
the model's choice: that the reset pin is spelled 0x01 on `rst` (log 12; R87 says it is not an encoded word), and that the response
frame's bytes stand on a port `line` (log 11). -/
def Obligations.SpecWordsDecode : Prop :=
  decode .hostOp [0x10#8, 0xA0#8, 0x0F#8] = .word (.setTemperature 4000#16) [] ∧
  decode .hostOp [0x15#8, 0x01#8, 0x00#8] = .word (.setPowerStatus true) [] ∧
  decode .rxEv [0x40#8, 0x03#8, 0x00#8, 0x32#8, 0x37#8, 0x5E#8] = .word (.rxChunk [0x32#8, 0x37#8, 0x5E#8]) [] ∧
  decode .rxEv [0x41#8, 0x92#8, 0x00#8] = .word (.lineError 18#7 true) [] ∧
  decode .rst [0x01#8] = .word .reset [] ∧
  decode .hostOut [0x80#8, 0x3C#8, 0xA0#8, 0x0F#8] = .word (.nValue 60#8 4000#16) [] ∧
  decode .tx [0x2A#8, 0x36#8, 0x30#8, 0x30#8, 0x66#8, 0x61#8, 0x30#8, 0x38#8, 0x64#8, 0x0D#8]
    = .word (.wireSetTemp 4000#16) [] ∧
  decode .line [0x2A#8, 0x30#8, 0x66#8, 0x61#8, 0x30#8, 0x32#8, 0x37#8, 0x5E#8]
    = .word (.wireResponse 0x30#8 0x66#8 0x61#8 0x30#8 0x32#8 0x37#8) []

/-- Every well-formed instruction of the table is read back from its words, whatever follows them. -/
def Obligations.DecodeOfEncodeIsIdentity : Prop :=
  ∀ (i : Instr) (rest : List Byte), i.wellFormed = true → decode i.port (encode i ++ rest) = .word i rest

/-- The converse: what the decoder accepts is a well-formed instruction of that port, and the bytes read are its words; so
no two words spell one instruction and no other word is accepted. -/
def Obligations.DecodedBytesAreTheEncoding : Prop :=
  ∀ (p : Port) (bs : List Byte) (i : Instr) (rest : List Byte), decode p bs = .word i rest →
    i.wellFormed = true ∧ i.port = p ∧ bs = encode i ++ rest

/-- R81: an `opc` not in R75, an `evc` not in R78, a must-be-zero bit set, and RX_CHUNK with n = 0 are refused by the decoder by
name. The last clause, that a step which meets any word the decoder refuses is refused with that name (R11), rests on the model's
choices in logs 3, 7, 15 and 20; it leaves out bytes on `line`, which are received (R82, `MalformedWireInputIsReceived`). -/
def Obligations.ReservedWordsRefusedByName : Prop :=
  (∀ (opc lo hi : Byte) (rest : List Byte),
    opc ∉ [0x01#8, 0x02#8, 0x03#8, 0x10#8, 0x11#8, 0x12#8, 0x13#8, 0x14#8, 0x15#8, 0x16#8, 0x20#8] →
    decode .hostOp (opc :: lo :: hi :: rest) = .refused (.reservedOpc opc)) ∧
  (∀ (opc lo hi : Byte) (rest : List Byte),
    opc ∈ [0x01#8, 0x02#8, 0x03#8, 0x11#8, 0x12#8, 0x13#8, 0x14#8, 0x16#8, 0x20#8] → ¬(lo = 0#8 ∧ hi = 0#8) →
    decode .hostOp (opc :: lo :: hi :: rest) = .refused (.operandNotZero opc)) ∧
  (∀ (lo hi : Byte) (rest : List Byte), ¬(lo.toNat ≤ 1 ∧ hi = 0#8) →
    decode .hostOp (0x15#8 :: lo :: hi :: rest) = .refused (.operandNotZero 0x15#8)) ∧
  (∀ (evc lo hi : Byte) (rest : List Byte), evc ∉ [0x40#8, 0x41#8, 0x42#8] →
    decode .rxEv (evc :: lo :: hi :: rest) = .refused (.reservedEvc evc)) ∧
  (∀ (evc lo hi : Byte) (rest : List Byte), evc ∈ [0x40#8, 0x41#8, 0x42#8] → hi ≠ 0#8 →
    decode .rxEv (evc :: lo :: hi :: rest) = .refused (.argNotZero evc)) ∧
  (∀ (lo : Byte) (rest : List Byte), lo ≠ 0#8 →
    decode .rxEv (0x42#8 :: lo :: 0#8 :: rest) = .refused (.argNotZero 0x42#8)) ∧
  (∀ rest : List Byte, decode .rxEv (0x40#8 :: 0#8 :: 0#8 :: rest) = .refused .emptyChunk) ∧
  (∀ (s : State) (passed : List Input) (inp : Input) (later : List Input) (e : DecodeError),
    NextInput s passed inp later → heldReady s = false ∨ inp.heldFirst = false → inp.port ≠ .line ∨ inp.bytes = [] →
    decode inp.port inp.bytes = .refused e → step s = .refused (.reservedWord e))

/-- A step runs the decoded instruction: when the next input to take its step (`NextInput`: the first of the inbox, or the first
that is no waiting word of a held host) decodes to a well-formed `i` and no held request goes before it, the step is `exec i` with
the word taken from the inbox and the input's side signals on the ports (logs 3, 7, 13, 20). -/
def Obligations.StepRunsDecodedInstruction : Prop :=
  ∀ (s : State) (passed : List Input) (inp : Input) (later : List Input) (i : Instr) (rest : List Byte),
    NextInput s passed inp later → heldReady s = false ∨ inp.heldFirst = false →
    decode inp.port inp.bytes = .word i rest → i.wellFormed = true →
    step s = exec i { s with
      inbox := passed ++ if rest = [] then later else { inp with bytes := rest } :: later
      portCfg := inp.portCfg
      draw := inp.draw }

/-- R82, R5: bytes on the serial link that are no well-shaped response frame are no illegal encoding: the step receives them as an
RX_CHUNK, so unless AWAIT they are discarded, and in AWAIT they are appended to `rxbuf` and stay there while the buffer is no
frame. That at most 255 of them make the chunk and the rest stays next is the model's choice (log 11). -/
def Obligations.MalformedWireInputIsReceived : Prop :=
  ∀ (s : State) (passed : List Input) (inp : Input) (later : List Input) (e : DecodeError),
    NextInput s passed inp later → heldReady s = false ∨ inp.heldFirst = false → inp.port = .line → inp.bytes ≠ [] →
    decode inp.port inp.bytes = .refused e →
    step s = exec (.rxChunk (inp.bytes.take 255)) { s with
      inbox := passed ++ if inp.bytes.length ≤ 255 then later else { inp with bytes := inp.bytes.drop 255 } :: later
      portCfg := inp.portCfg
      draw := inp.draw } ∧
    (s.fsm = .idle → ∃ t, step s = .next t ∧ t.block = s.block) ∧
    (s.fsm = .await → shapeOK (s.rxbuf ++ inp.bytes.take 255) = false →
      ∃ t, step s = .next t ∧ t.block = { s.block with rxbuf := s.rxbuf ++ inp.bytes.take 255 })

/-- R191: with no event the block is idle and keeps all its state: nothing presented, or, while a request is held and has no step,
only words of the held host (which words wait is the model's choice, log 20). -/
def Obligations.IdleBlockKeepsState : Prop :=
  (∀ s : State, s.inbox = [] → heldReady s = false → step s = .next s) ∧
  (∀ s : State, s.held ≠ [] → heldReady s = false → (∀ w ∈ s.inbox, otherAgent w = false) →
    (∀ w ∈ s.inbox.head?, spells w .closeLink = false) → step s = .next s)

/-- R123: a held request "is held until a step of another agent makes room"; then, unless another input goes first, it is taken:
enqueued on an open link and reported NotOpen on a closed one. Where it stands in the interleaving is the inbox's (log 7). -/
def Obligations.HeldRequestTakenWhenRoom : Prop :=
  (∀ (s : State) (e : Entry) (later : List Entry), s.held = e :: later → s.isOpen = true → queueFull s = false →
    (∀ passed inp rest, NextInput s passed inp rest → inp.heldFirst = true) →
    step s = .next { s with queue := s.queue ++ [e], held := later }) ∧
  (∀ (s : State) (e : Entry) (later : List Entry), s.held = e :: later → s.isOpen = false →
    (∀ passed inp rest, NextInput s passed inp rest → inp.heldFirst = true) →
    step s = .next { s with out := s.out ++ [.nError .notOpen (cmdTag s.cfg.cmdCode e.cmd) 0#8], held := later })

/-- R11, R123: while a request is held no other instruction of the host runs, but a CLOSE, which R123 names among the steps that
make room (the choice of log 20). DISPATCH is the dispatch trigger's (R5). -/
def Obligations.HeldHostIssuesOnlyClose : Prop :=
  ∀ (s s' : State) (i : Instr), s.held ≠ [] → fetch s = .instr i s' →
    i.port ≠ .hostOp ∨ i = .dispatch ∨ i = .closeLink

/-- R181: the order of different agents is free, also once a held request has its step: for every input of another agent that is
presented first, both orders are runs of the model, by what the input says (log 7). So they are for the held host's own CLOSE,
which is the model's choice (log 20). -/
def Obligations.EitherAgentMayGoFirst : Prop :=
  ∀ (s : State) (e : Entry) (more : List Entry) (inp : Input) (later : List Input) (i : Instr) (rest : List Byte),
    s.held = e :: more → heldReady s = true → otherAgent inp = true ∨ spells inp .closeLink = true →
    decode inp.port inp.bytes = .word i rest →
    step { s with inbox := { inp with heldFirst := true } :: later }
      = .next (request e.cmd e.payload { s with inbox := { inp with heldFirst := true } :: later, held := more }) ∧
    step { s with inbox := { inp with heldFirst := false } :: later }
      = exec i { s with
          inbox := if rest = [] then later else { inp with heldFirst := false, bytes := rest } :: later
          portCfg := inp.portCfg
          draw := inp.draw }

/-! ### Reset -/

/-- R39: the reset value of every state element; "`tmr_cnt = 0` is the spec's own" (D27, D34). -/
def Obligations.ResetValuesOfStateElements : Prop :=
  State.reset.isOpen = false ∧ State.reset.fsm = .idle ∧ State.reset.queue = [] ∧ State.reset.rxbuf = [] ∧
  State.reset.tmrCnt = 0

/-- R200: `rst` puts every state element to its reset value in every state, emits no record, does not call the transport, and
keeps the histories. "This rule is the spec's own" (D27). -/
def Obligations.ResetPinClearsTheBlock : Prop :=
  ∀ s : State, Becomes .reset s s.block.cleared ∧ ∀ t, exec .reset s = .next t → t.xctl = s.xctl

/-! ### Host operations -/

/-- R120: OPEN while open has no effect and does not call the transport; else the transport is asked with the configuration
unmodified, and on ok the block is open with everything cleared, on fail nothing changes. No record in any case. The rule
rests on the spec's decisions D14 and D36; the call history is the model's (log 6). -/
def Obligations.OpenFollowsTheVerdict : Prop :=
  encode .openLink = [0x01#8, 0#8, 0#8] ∧
  (∀ s : State, s.isOpen = true → exec .openLink s = .next s) ∧
  (∀ s : State, s.isOpen = false → answer s = .ok →
    Becomes .openLink s { s.block with isOpen := true, fsm := .idle, tmrCnt := 0, queue := [], rxbuf := [] }) ∧
  (∀ s : State, s.isOpen = false → answer s = .fail → Becomes .openLink s s.block) ∧
  (∀ s t : State, s.isOpen = false → exec .openLink s = .next t → t.xctl = s.xctl ++ [.xopen s.portCfg (answer s)])

/-- R121: CLOSE leaves the closed, cleared block in every state, emits no record, and calls the transport only when open. -/
def Obligations.CloseDiscardsEverything : Prop :=
  encode .closeLink = [0x02#8, 0#8, 0#8] ∧
  (∀ s : State, Becomes .closeLink s s.block.cleared) ∧
  (∀ s t : State, exec .closeLink s = .next t →
    t.xctl = if s.isOpen = true then s.xctl ++ [.xclose] else s.xctl)

/-- R122: IS_OPEN emits R_ISOPEN(open), whose word has the flag in bit 8 (R80), and writes no state element. -/
def Obligations.IsOpenReportsTheFlag : Prop :=
  encode .isOpen = [0x03#8, 0#8, 0#8] ∧
  (∀ s : State, Becomes .isOpen s { s.block with out := s.out ++ [.rIsOpen s.isOpen] }) ∧
  Record.words (.rIsOpen true) = [0x84#8, 0x01#8, 0#8, 0#8] ∧ Record.words (.rIsOpen false) = [0x84#8, 0#8, 0#8, 0#8]

/-- R123 with R124-R130: each request, at its encoding, enqueues its command and payload on an open link with room, changes
nothing of the block while a finite queue is full, and while closed emits only NotOpen with its command's code. Where R123 and R11
say "no step" at a full queue, the model takes a step that leaves the block as it is (log 7). That true is 1 in R129 "is the spec's
own" (D21). -/
def Obligations.RequestsEnqueueOrReportNotOpen : Prop :=
  ∀ (i : Instr) (opc : Byte) (opnd : Half) (c : Command) (p : Half), requestRow i = some (opc, opnd, c, p) →
    encode i = [opc, loByte opnd, hiByte opnd] ∧
    (∀ s : State, s.isOpen = true → s.cfg.qDepth ≠ some s.queue.length →
      Becomes i s { s.block with queue := s.queue ++ [⟨c, p⟩] }) ∧
    (∀ s : State, s.isOpen = true → s.cfg.qDepth = some s.queue.length → Becomes i s s.block) ∧
    (∀ s : State, s.isOpen = false →
      Becomes i s { s.block with out := s.out ++ [.nError .notOpen (cmdTag s.cfg.cmdCode c) 0#8] })

/-- R11, R123: at a full finite queue the request waits behind those already held, and nothing else changes (the list of held
requests is the model's, log 7). -/
def Obligations.FullQueueHoldsTheRequest : Prop :=
  ∀ (i : Instr) (opc : Byte) (opnd : Half) (c : Command) (p : Half) (s : State),
    requestRow i = some (opc, opnd, c, p) → s.isOpen = true → s.cfg.qDepth = some s.queue.length →
    exec i s = .next { s with held := s.held ++ [⟨c, p⟩] }

/-- R131: under the guard, DISPATCH sends exactly the head's frame with the verdict drawn, and moves to AWAIT with the timer
loaded on ok, changing nothing else on fail; otherwise it has no effect. The head stays in the queue. -/
def Obligations.DispatchSendsTheHead : Prop :=
  encode .dispatch = [0x20#8, 0#8, 0#8] ∧
  (∀ (s : State) (e : Entry) (q : List Entry), s.isOpen = true → s.fsm = .idle → s.queue = e :: q → answer s = .ok →
    Becomes .dispatch s { s.block with
      fsm := .await
      tmrCnt := s.cfg.tTimeout
      txlog := s.txlog ++ [⟨encodeFrame s.cfg.cmdCode e.cmd e.payload, .ok⟩] }) ∧
  (∀ (s : State) (e : Entry) (q : List Entry), s.isOpen = true → s.fsm = .idle → s.queue = e :: q → answer s = .fail →
    Becomes .dispatch s { s.block with
      txlog := s.txlog ++ [⟨encodeFrame s.cfg.cmdCode e.cmd e.payload, .fail⟩] }) ∧
  (∀ s : State, s.isOpen = false ∨ s.fsm = .await ∨ s.queue = [] → exec .dispatch s = .next s)

/-- R211: after a failed write the next DISPATCH, whatever its verdict, sends the same frame again. -/
def Obligations.FailedWriteIsResent : Prop :=
  ∀ (s t : State) (e : Entry) (q : List Entry) (v : Option Verdict),
    s.isOpen = true → s.fsm = .idle → s.queue = e :: q → answer s = .fail → exec .dispatch s = .next t →
    ∃ u, exec .dispatch { t with draw := v } = .next u ∧
      u.txlog = s.txlog ++ [⟨encodeFrame s.cfg.cmdCode e.cmd e.payload, .fail⟩,
        ⟨encodeFrame s.cfg.cmdCode e.cmd e.payload, answer { t with draw := v }⟩]

/-! ### Transport and time-base events -/

/-- R150-R153: a chunk is discarded unless AWAIT; in AWAIT it is appended, and the whole buffer is tried once: no frame, the
bytes are kept; a frame, the timer is stopped and N_RAWFRAME comes first, then the value with the head's command (R151) or a
ChecksumMismatch (R152), and the head is dropped, the buffer cleared, the block IDLE. -/
def Obligations.ChunkIsKeptOrResolvesTheHead : Prop :=
  (∀ bs : List Byte, encode (.rxChunk bs) = [0x40#8, BitVec.ofNat 8 bs.length, 0#8] ++ bs) ∧
  (∀ (s : State) (bs : List Byte), s.fsm = .idle → exec (.rxChunk bs) s = .next s) ∧
  (∀ (s : State) (bs : List Byte), s.fsm = .await →
    tryDecode (s.rxbuf ++ bs) = .incomplete ∨ tryDecode (s.rxbuf ++ bs) = .invalidShape →
    Becomes (.rxChunk bs) s { s.block with rxbuf := s.rxbuf ++ bs }) ∧
  (∀ (s : State) (bs d k : List Byte) (e : Entry) (q : List Entry) (v : Half), s.fsm = .await → s.queue = e :: q →
    tryDecode (s.rxbuf ++ bs) = .frame d k → verifyChecksum d k = .ok v →
    Becomes (.rxChunk bs) s { s.block with
      fsm := .idle
      tmrCnt := 0
      rxbuf := []
      queue := q
      out := s.out ++ [.nRawFrame (s.rxbuf ++ bs), .nValue v (cmdTag s.cfg.cmdCode e.cmd)] }) ∧
  (∀ (s : State) (bs d k : List Byte) (e : Entry) (q : List Entry), s.fsm = .await → s.queue = e :: q →
    tryDecode (s.rxbuf ++ bs) = .frame d k → verifyChecksum d k = .mismatch →
    Becomes (.rxChunk bs) s { s.block with
      fsm := .idle
      tmrCnt := 0
      rxbuf := []
      queue := q
      out := s.out ++ [.nRawFrame (s.rxbuf ++ bs), .nError .checksumMismatch (cmdTag s.cfg.cmdCode e.cmd) 0#8] })

/-- R86, R150, R151: the correct response frame of any value, split in two chunks at any point, is reported as that value with the
head's command, and the head is dropped. -/
def Obligations.CorrectReplyReportsItsValue : Prop :=
  ∀ (s : State) (e : Entry) (q : List Entry) (v : Half) (a b : List Byte),
    s.fsm = .await → s.rxbuf = [] → s.queue = e :: q → a ++ b = responseFrame v → b ≠ [] →
    ∃ t, exec (.rxChunk a) s = .next t ∧
      Becomes (.rxChunk b) t { s.block with
        fsm := .idle
        tmrCnt := 0
        queue := q
        out := s.out ++ [.nRawFrame (responseFrame v), .nValue v (cmdTag s.cfg.cmdCode e.cmd)] }

/-- R159: a well-shaped frame and bytes after it: in two chunks the frame resolves and the rest is discarded in IDLE; in one
chunk the buffer keeps all of them and the command stays in flight. -/
def Obligations.ChunkingDecidesTheOutcome : Prop :=
  ∀ (s : State) (f extra : List Byte), s.fsm = .await → s.rxbuf = [] → shapeOK f = true → extra ≠ [] →
    (∃ t, exec (.rxChunk f) s = .next t ∧ t.fsm = .idle ∧ exec (.rxChunk extra) t = .next t) ∧
    Becomes (.rxChunk (f ++ extra)) s { s.block with rxbuf := f ++ extra }

/-- R206: once the buffer in AWAIT is no prefix of a frame, no further bytes can complete one: they are kept, the block stays
AWAIT, nothing is reported, and the buffer is still no prefix. -/
def Obligations.GarbageBlocksTheMatch : Prop :=
  ∀ (s : State) (bs : List Byte), s.fsm = .await → tryDecode s.rxbuf = .invalidShape →
    Becomes (.rxChunk bs) s { s.block with rxbuf := s.rxbuf ++ bs } ∧ tryDecode (s.rxbuf ++ bs) = .invalidShape

/-- R154, R155: TIME_TICK does nothing unless AWAIT; a counter above 1 goes down by one; at 1 the timeout is reported with the
head's command, whether or not the buffer is empty, and the head is dropped, the buffer cleared, the block IDLE. "The counter form is the spec's own reading" (D11). -/
def Obligations.TimeTickCountsDownAndExpires : Prop :=
  encode .timeTick = [0x42#8, 0#8, 0#8] ∧
  (∀ s : State, s.fsm = .idle → exec .timeTick s = .next s) ∧
  (∀ (s : State) (n : Nat), s.fsm = .await → s.tmrCnt = n + 2 →
    Becomes .timeTick s { s.block with tmrCnt := n + 1 }) ∧
  (∀ (s : State) (e : Entry) (q : List Entry), s.fsm = .await → s.tmrCnt = 1 → s.queue = e :: q →
    Becomes .timeTick s { s.block with
      fsm := .idle
      tmrCnt := 0
      rxbuf := []
      queue := q
      out := s.out ++ [.nError .responseTimeout (cmdTag s.cfg.cmdCode e.cmd) 0#8] })

/-- R158: from a successful transmit, with `T_TIMEOUT` >= 1 and no other event, every earlier tick only counts down, and the timeout
fires at the `T_TIMEOUT`-th TIME_TICK, once: a further tick has no effect. -/
def Obligations.TimeoutFiresAtTheLastTick : Prop :=
  ∀ (s t : State) (e : Entry) (q : List Entry), s.isOpen = true → s.fsm = .idle → s.queue = e :: q → answer s = .ok →
    1 ≤ s.cfg.tTimeout → exec .dispatch s = .next t →
    (∀ k, k < s.cfg.tTimeout → execTicks k t = .next { t with tmrCnt := s.cfg.tTimeout - k }) ∧
    ∃ u, execTicks s.cfg.tTimeout t = .next u ∧
      u.block = { t.block with
        fsm := .idle
        tmrCnt := 0
        rxbuf := []
        queue := q
        out := s.out ++ [.nError .responseTimeout (cmdTag s.cfg.cmdCode e.cmd) 0#8] } ∧
      execTicks (s.cfg.tTimeout + 1) t = .next u

/-- R156, R157: in any state a line error clears the buffer, stops the timer and goes to IDLE, reports TransportFault with the
head's command and drops the head, or with NONE's 0 if the queue is empty, and N_FATAL follows if it is fatal; `open` stays. -/
def Obligations.LineErrorReportsAndRecovers : Prop :=
  (∀ (kind : BitVec 7) (fatal : Bool),
    encode (.lineError kind fatal) = [0x41#8, BitVec.ofBool fatal ++ kind, 0#8]) ∧
  (∀ (s : State) (e : Entry) (q : List Entry) (kind : BitVec 7) (fatal : Bool), s.queue = e :: q →
    Becomes (.lineError kind fatal) s { s.block with
      fsm := .idle
      tmrCnt := 0
      rxbuf := []
      queue := q
      out := s.out ++ [.nError .transportFault (cmdTag s.cfg.cmdCode e.cmd) (kind.setWidth 8)]
        ++ if fatal = true then [.nFatal (kind.setWidth 8)] else [] }) ∧
  (∀ (s : State) (kind : BitVec 7) (fatal : Bool), s.queue = [] →
    Becomes (.lineError kind fatal) s { s.block with
      fsm := .idle
      tmrCnt := 0
      rxbuf := []
      out := s.out ++ [.nError .transportFault 0#8 (kind.setWidth 8)]
        ++ if fatal = true then [.nFatal (kind.setWidth 8)] else [] })

/-- R5, R71: the device's response frame, all of it in one chunk on an empty buffer, resolves the head in AWAIT by its checksum and is
discarded in IDLE. That it arrives as one chunk is the model's choice for this row (log 11). -/
def Obligations.ResponseFrameArrivesAsOneChunk : Prop :=
  (∀ (s : State) (d0 d1 d2 d3 k0 k1 : Byte), s.fsm = .idle → exec (.wireResponse d0 d1 d2 d3 k0 k1) s = .next s) ∧
  (∀ (s : State) (d0 d1 d2 d3 k0 k1 : Byte) (e : Entry) (q : List Entry), s.fsm = .await → s.rxbuf = [] →
    s.queue = e :: q → (Instr.wireResponse d0 d1 d2 d3 k0 k1).wellFormed = true →
    (∀ v : Half, verifyChecksum [d0, d1, d2, d3] [k0, k1] = .ok v →
      Becomes (.wireResponse d0 d1 d2 d3 k0 k1) s { s.block with
        fsm := .idle
        tmrCnt := 0
        queue := q
        out := s.out ++ [.nRawFrame [star, d0, d1, d2, d3, k0, k1, caret], .nValue v (cmdTag s.cfg.cmdCode e.cmd)] }) ∧
    (verifyChecksum [d0, d1, d2, d3] [k0, k1] = .mismatch →
      Becomes (.wireResponse d0 d1 d2 d3 k0 k1) s { s.block with
        fsm := .idle
        tmrCnt := 0
        queue := q
        out := s.out ++ [.nRawFrame [star, d0, d1, d2, d3, k0, k1, caret],
          .nError .checksumMismatch (cmdTag s.cfg.cmdCode e.cmd) 0#8] }))

/-! ### Rows that are outputs -/

/-- R87: "tags 0x80..0x84 are output records, which are never inputs": each is refused by name in every state (log 10). -/
def Obligations.OutputRecordsAreNeverInputs : Prop :=
  ∀ s : State,
    (∀ c v, exec (.nValue c v) s = .refused .outputRecord) ∧
    (∀ c k d, exec (.nError c k d) s = .refused .outputRecord) ∧
    (∀ f, exec (.nRawFrame f) s = .refused .outputRecord) ∧
    (∀ d, exec (.nFatal d) s = .refused .outputRecord) ∧
    (∀ b, exec (.rIsOpen b) s = .refused .outputRecord)

/-- R6, R87: a request frame is what the block puts on `tx`; every WIRE_REQ row met as an input is refused by name (log 10). -/
def Obligations.RequestFramesAreNeverInputs : Prop :=
  ∀ (s : State) (c : Command) (p : Half), exec (wireInstr c p) s = .refused .requestFrame

/-! ### The codec -/

/-- R70 (and R114): every frame Encode builds has 10 bytes, `*` first, the code's two decimal digits, the payload's four lowercase
hex digits, the checksum of bytes 1..6 in two lowercase hex digits, and the carriage return last; the payload reads back. -/
def Obligations.RequestFrameLayout : Prop :=
  ∀ (t : CmdCodes) (c : Command) (p : Half), ∃ c0 c1 p0 p1 p2 p3 k0 k1 : Byte,
    encodeFrame t c p = [0x2A#8, c0, c1, p0, p1, p2, p3, k0, k1, 0x0D#8] ∧
    c0.toNat = 0x30 + (cmdCode t c).val / 10 ∧ c1.toNat = 0x30 + (cmdCode t c).val % 10 ∧
    4096 * hexval p0 + 256 * hexval p1 + 16 * hexval p2 + hexval p3 = p.toNat ∧
    16 * hexval k0 + hexval k1
      = (c0.toNat + c1.toNat + p0.toNat + p1.toNat + p2.toNat + p3.toNat) % 256 ∧
    ∀ x ∈ [p0, p1, p2, p3, k0, k1],
      (0x30 ≤ x.toNat ∧ x.toNat ≤ 0x39) ∨ (0x61 ≤ x.toNat ∧ x.toNat ≤ 0x66)

/-- R72: the code table the model uses where none is given is the spec's, and the code digits in a request frame are those of the
table's `CC` column. -/
def Obligations.DefaultCodeTable : Prop :=
  (∀ c : Command, (cmdCode CmdCodes.default c).val = match c with
    | .none => 0
    | .getTemp => 1
    | .getOutput => 3
    | .getSensorStatus => 4
    | .getSetTemp => 30
    | .getPowerStatus => 35
    | .setTemp => 60
    | .setPowerStatus => 65) ∧
  (∀ (c : Command) (p : Half), c ≠ .none → ((encodeFrame CmdCodes.default c p).drop 1).take 2 = match c with
    | .none => []
    | .getTemp => [0x30#8, 0x31#8]
    | .getOutput => [0x30#8, 0x33#8]
    | .getSensorStatus => [0x30#8, 0x34#8]
    | .getSetTemp => [0x33#8, 0x30#8]
    | .getPowerStatus => [0x33#8, 0x35#8]
    | .setTemp => [0x36#8, 0x30#8]
    | .setPowerStatus => [0x36#8, 0x35#8])

/-- R80, R84: the bytes of every output record, low byte of the word first (R79): tag, command code, and the record's own fields at
their bits; the kind code of each error; the frame's 8 bytes after the word of N_RAWFRAME. The layout and the numbers are "the spec's
own" (D4, D35). -/
def Obligations.RecordWordsLayout : Prop :=
  (∀ (v : Half) (c : Byte), ∃ lo hi : Byte, Record.words (.nValue v c) = [0x80#8, c, lo, hi] ∧
    256 * hi.toNat + lo.toNat = v.toNat) ∧
  (∀ c d : Byte,
    Record.words (.nError .notOpen c d) = [0x81#8, c, 0x01#8, d] ∧
    Record.words (.nError .checksumMismatch c d) = [0x81#8, c, 0x02#8, d] ∧
    Record.words (.nError .responseTimeout c d) = [0x81#8, c, 0x03#8, d] ∧
    Record.words (.nError .transportFault c d) = [0x81#8, c, 0x04#8, d]) ∧
  (∀ f : List Byte, Record.words (.nRawFrame f) = [0x82#8, 0#8, 0#8, 0#8] ++ f) ∧
  (∀ d : Byte, Record.words (.nFatal d) = [0x83#8, 0#8, 0#8, d]) ∧
  (∀ b : Bool, Record.words (.rIsOpen b) = [0x84#8, if b = true then 1#8 else 0#8, 0#8, 0#8])

/-- R108: Frame exactly on eight bytes `*`, six hex digits, `^`, with D and K the bytes between; Incomplete exactly when more bytes
can still make a frame, InvalidShape exactly when none can and it is none. The split of the last two "is the spec's own" (D9). -/
def Obligations.TryDecodeClassifiesBuffers : Prop :=
  (∀ b d k : List Byte, tryDecode b = .frame d k ↔
    ∃ d0 d1 d2 d3 k0 k1 : Byte, b = [0x2A#8, d0, d1, d2, d3, k0, k1, 0x5E#8] ∧
      (∀ x ∈ [d0, d1, d2, d3, k0, k1], isHex x = true) ∧ d = [d0, d1, d2, d3] ∧ k = [k0, k1]) ∧
  (∀ b : List Byte, tryDecode b = .incomplete ↔ ∃ m : List Byte, m ≠ [] ∧ shapeOK (b ++ m) = true) ∧
  (∀ b : List Byte, tryDecode b = .invalidShape ↔ ∀ m : List Byte, shapeOK (b ++ m) = false)

/-- R109: Frame implies eight bytes, and a well-shaped frame preceded or followed by any other byte is never a Frame. -/
def Obligations.FrameMatchIsExact : Prop :=
  (∀ b d k : List Byte, tryDecode b = .frame d k → b.length = 8) ∧
  (∀ f before after : List Byte, shapeOK f = true → before ≠ [] ∨ after ≠ [] →
    ∀ d k : List Byte, tryDecode (before ++ f ++ after) ≠ .frame d k)

/-- R110: the sum of D's bytes as received, mod 256, against K read case-insensitively; the value is D's four digits. -/
def Obligations.ChecksumVerification : Prop :=
  ∀ d0 d1 d2 d3 k0 k1 : Byte, (Instr.wireResponse d0 d1 d2 d3 k0 k1).wellFormed = true →
    ((d0.toNat + d1.toNat + d2.toNat + d3.toNat) % 256 = 16 * hexval k0 + hexval k1 →
      ∃ v : Half, verifyChecksum [d0, d1, d2, d3] [k0, k1] = .ok v ∧
        v.toNat = 4096 * hexval d0 + 256 * hexval d1 + 16 * hexval d2 + hexval d3) ∧
    ((d0.toNat + d1.toNat + d2.toNat + d3.toNat) % 256 ≠ 16 * hexval k0 + hexval k1 →
      verifyChecksum [d0, d1, d2, d3] [k0, k1] = .mismatch)

/-- R56: a store of the length saturating at 9 (ten values, 0 to 9) and the first 8 bytes is enough: it decides TryDecode, the emptiness test and the bytes of
a frame, and the store of a longer buffer follows from the store and the new bytes. -/
def Obligations.SaturatedStoreIsEnough : Prop :=
  ∀ b b' : List Byte, min b.length 9 = min b'.length 9 → b.take 8 = b'.take 8 →
    tryDecode b = tryDecode b' ∧ (b = [] ↔ b' = []) ∧ (shapeOK b = true → b = b') ∧
    ∀ m : List Byte, min (b ++ m).length 9 = min (b' ++ m).length 9 ∧ (b ++ m).take 8 = (b' ++ m).take 8

/-! ### Whole-machine rules -/

/-- R30-R33 and R39: the invariant holds at reset. -/
def Obligations.InvariantHoldsAtReset : Prop := BlockInv State.reset

/-- R30-R33: every step from any state that has the invariant leads to one that has it. -/
def Obligations.StepKeepsInvariant : Prop :=
  ∀ s t : State, BlockInv s → step s = .next t → BlockInv t

/-- R33: with the invariant, a frame goes out only from IDLE, at most one in a step, and an ok one puts the block in AWAIT; and a
step that ends AWAIT removes the in-flight head. -/
def Obligations.AtMostOneRequestInFlight : Prop :=
  ∀ (i : Instr) (s t : State), BlockInv s → exec i s = .next t →
    (t.txlog = s.txlog ∨
      ∃ x : TxEntry, t.txlog = s.txlog ++ [x] ∧ s.fsm = .idle ∧ (x.verdict = .ok ↔ t.fsm = .await)) ∧
    (s.fsm = .await → t.fsm = .idle → t.queue = s.queue.tail ∨ t.queue = [])

/-- R133: "no host operation other than DISPATCH ever puts a frame on `tx`", and no other event does. -/
def Obligations.OnlyDispatchTransmits : Prop :=
  ∀ (i : Instr) (s t : State), i ≠ .dispatch → exec i s = .next t → t.txlog = s.txlog

/-- R27: OUT and TXLOG are read by no rule, and nothing erases them (reset among them): what an instruction does is the same
whatever the histories hold, and it only appends to them. -/
def Obligations.HistoriesAreOnlyAppended : Prop :=
  ∀ (i : Instr) (s t : State), exec i s = .next t →
    ∃ (rs : List Record) (xs : List TxEntry), ∀ (o : List Record) (x : List TxEntry),
      exec i { s with out := o, txlog := x } = .next { t with out := o ++ rs, txlog := x ++ xs }

/-- R182 (and R179): the records of one event, in their order: N_RAWFRAME before its N_VALUE or N_ERROR, N_ERROR before N_FATAL, and
no other event emits more than one; so at most one N_ERROR. It holds of every instruction and of every step. -/
def Obligations.RecordsOfOneEvent : Prop :=
  (∀ (i : Instr) (s t : State), exec i s = .next t → ∃ rs, EventRecords rs ∧ t.out = s.out ++ rs) ∧
  (∀ s t : State, step s = .next t → ∃ rs, EventRecords rs ∧ t.out = s.out ++ rs)

/-- R122, R150-R152, R172-R176: which event raises which record of R80, and in which state. -/
def Obligations.NotificationsComeFromTheirRules : Prop :=
  ∀ (i : Instr) (s t : State) (rs : List Record), exec i s = .next t → t.out = s.out ++ rs →
    (∀ c d, .nError .notOpen c d ∈ rs → requestRow i ≠ none ∧ s.isOpen = false) ∧
    (∀ c d, .nError .checksumMismatch c d ∈ rs →
      ReceivesBytes i ∧ s.fsm = .await ∧ ∃ f, rs = [.nRawFrame f, .nError .checksumMismatch c d]) ∧
    (∀ c d, .nError .responseTimeout c d ∈ rs → i = .timeTick ∧ s.fsm = .await ∧ s.tmrCnt ≤ 1) ∧
    (∀ c d, .nError .transportFault c d ∈ rs → ∃ kind fatal, i = .lineError kind fatal) ∧
    (∀ d, .nFatal d ∈ rs → ∃ kind c, i = .lineError kind true ∧ rs = [.nError .transportFault c d, .nFatal d]) ∧
    (∀ v c, .nValue v c ∈ rs → ReceivesBytes i ∧ s.fsm = .await ∧ ∃ f, rs = [.nRawFrame f, .nValue v c]) ∧
    (∀ f, .nRawFrame f ∈ rs → ReceivesBytes i ∧ s.fsm = .await ∧ shapeOK f = true) ∧
    (∀ b, .rIsOpen b ∈ rs → i = .isOpen ∧ b = s.isOpen)

/-- R22: how the queue may change: appended at the tail by a request, its head removed by a frame, a timeout or a line error, emptied by
OPEN, CLOSE and reset, and not otherwise. -/
def Obligations.QueueChangesOnlyByItsRules : Prop :=
  ∀ (i : Instr) (s t : State), exec i s = .next t →
    t.queue = s.queue ∨
    (∃ opc opnd c p, requestRow i = some (opc, opnd, c, p) ∧ s.isOpen = true ∧ t.queue = s.queue ++ [⟨c, p⟩]) ∨
    (t.queue = s.queue.tail ∧ ((s.fsm = .await ∧ (i = .timeTick ∨ ReceivesBytes i)) ∨
      ∃ kind fatal, i = .lineError kind fatal)) ∨
    (t.queue = [] ∧ (i = .openLink ∨ i = .closeLink ∨ i = .reset))

/-- R36: `open` and `fsm` are set and cleared only by the events the table of flags names. -/
def Obligations.FlagsChangeOnlyByTheirRules : Prop :=
  ∀ (i : Instr) (s t : State), exec i s = .next t →
    (s.isOpen = false → t.isOpen = true → i = .openLink ∧ answer s = .ok) ∧
    (s.isOpen = true → t.isOpen = false → i = .closeLink ∨ i = .reset) ∧
    (s.fsm = .idle → t.fsm = .await → i = .dispatch ∧ answer s = .ok) ∧
    (s.fsm = .await → t.fsm = .idle →
      i = .openLink ∨ i = .closeLink ∨ i = .reset ∨ i = .timeTick ∨ (∃ bs, i = .rxChunk bs) ∨
      (∃ kind fatal, i = .lineError kind fatal) ∨ ∃ d0 d1 d2 d3 k0 k1, i = .wireResponse d0 d1 d2 d3 k0 k1)

/-- The frame on the model's own fields: no instruction changes the parameters (R37), the inbox or the side signals; only OPEN and
CLOSE call the transport; only OPEN and DISPATCH draw; only a request is held. -/
def Obligations.ExecKeepsEnvironment : Prop :=
  ∀ (i : Instr) (s t : State), exec i s = .next t →
    t.cfg = s.cfg ∧ t.inbox = s.inbox ∧ t.portCfg = s.portCfg ∧ t.draw = s.draw ∧
    (t.xctl = s.xctl ∨ i = .openLink ∨ i = .closeLink) ∧
    (t.drawn = s.drawn ∨ i = .openLink ∨ i = .dispatch) ∧
    (t.held = s.held ∨ requestRow i ≠ none)
end

