-- ==== Sys2Proof/Laws/Codec.lean ====
section
/-! SUPPORT. Lemmas about the codec's digit helpers and buffers, cited by proofs about frames. -/

namespace Sys2Proof.Machine

/-- A lowercase digit is a hex digit. -/
@[simp] theorem isHex_hexlc (v : BitVec 4) : isHex (hexlc v) = true := by
  revert v; decide

/-- A lowercase digit reads back as its value. -/
@[simp] theorem hexval_hexlc (v : BitVec 4) : hexval (hexlc v) = v.toNat := by
  revert v; decide

/-- A lowercase digit is one of `0`-`9` or `a`-`f` (R100). -/
theorem hexlc_range (v : BitVec 4) :
    (0x30 ≤ (hexlc v).toNat ∧ (hexlc v).toNat ≤ 0x39) ∨ (0x61 ≤ (hexlc v).toNat ∧ (hexlc v).toNat ≤ 0x66) := by
  revert v; decide

/-- The four nibbles of a 16-bit value add up to it (R104). -/
theorem nibbles_half (p : Half) :
    4096 * (p.extractLsb' 12 4).toNat + 256 * (p.extractLsb' 8 4).toNat + 16 * (p.extractLsb' 4 4).toNat
      + (p.extractLsb' 0 4).toNat = p.toNat := by
  simp only [BitVec.extractLsb'_toNat, Nat.shiftRight_eq_div_pow]
  have := p.isLt
  omega

/-- The two nibbles of a byte add up to it (R105). -/
theorem nibbles_byte (k : Byte) :
    16 * (k.extractLsb' 4 4).toNat + (k.extractLsb' 0 4).toNat = k.toNat := by
  simp only [BitVec.extractLsb'_toNat, Nat.shiftRight_eq_div_pow]
  have := k.isLt
  omega

/-- Four lowercase digits read back as the payload they spell. -/
@[simp] theorem hexNat_hex4 (p : Half) : hexNat (hex4 p) = p.toNat := by
  have := nibbles_half p
  simp [hexNat, hex4]
  omega

/-- Two lowercase digits read back as the byte they spell. -/
@[simp] theorem hexNat_hex2 (k : Byte) : hexNat (hex2 k) = k.toNat := by
  have := nibbles_byte k
  simp [hexNat, hex2]
  omega

/-- A buffer is well-shaped exactly when it is `*`, six hex digits and `^` (R108). -/
theorem shapeOK_iff (b : List Byte) :
    shapeOK b = true ↔ ∃ d0 d1 d2 d3 k0 k1 : Byte, b = [star, d0, d1, d2, d3, k0, k1, caret] ∧
      ∀ x ∈ [d0, d1, d2, d3, k0, k1], isHex x = true := by
  constructor
  · intro h
    match b, h with
    | [b0, b1, b2, b3, b4, b5, b6, b7], h =>
      simp [shapeOK] at h
      obtain ⟨⟨rfl, h⟩, rfl⟩ := h
      exact ⟨b1, b2, b3, b4, b5, b6, rfl, by simpa using h⟩
    | [], h => simp [shapeOK] at h
    | [_], h => simp [shapeOK] at h
    | [_, _], h => simp [shapeOK] at h
    | [_, _, _], h => simp [shapeOK] at h
    | [_, _, _, _], h => simp [shapeOK] at h
    | [_, _, _, _, _], h => simp [shapeOK] at h
    | [_, _, _, _, _, _], h => simp [shapeOK] at h
    | [_, _, _, _, _, _, _], h => simp [shapeOK] at h
    | _ :: _ :: _ :: _ :: _ :: _ :: _ :: _ :: _ :: _, h => simp [shapeOK] at h
  · rintro ⟨d0, d1, d2, d3, k0, k1, rfl, h⟩
    simpa [shapeOK] using h

/-- A well-shaped buffer has eight bytes (R109). -/
theorem shapeOK_length {b : List Byte} (h : shapeOK b = true) : b.length = 8 := by
  obtain ⟨_, _, _, _, _, _, rfl, _⟩ := (shapeOK_iff b).1 h
  rfl

/-- TryDecode answers a frame exactly on a well-shaped buffer, with its bytes 1..4 and 5..6 (R108). -/
theorem tryDecode_frame_iff (b d k : List Byte) :
    tryDecode b = .frame d k ↔ shapeOK b = true ∧ d = (b.drop 1).take 4 ∧ k = (b.drop 5).take 2 := by
  unfold tryDecode
  split
  · rename_i h
    simp [h, eq_comm]
  · rename_i h
    split <;> simp [h]

/-- TryDecode on a well-shaped buffer written out. -/
theorem tryDecode_shaped (d0 d1 d2 d3 k0 k1 : Byte) (h : ∀ x ∈ [d0, d1, d2, d3, k0, k1], isHex x = true) :
    tryDecode [star, d0, d1, d2, d3, k0, k1, caret] = .frame [d0, d1, d2, d3] [k0, k1] := by
  rw [tryDecode_frame_iff]
  exact ⟨(shapeOK_iff _).2 ⟨d0, d1, d2, d3, k0, k1, rfl, h⟩, rfl, rfl⟩

/-- The response frame of a value, written out (R86). -/
theorem responseFrame_eq (v : Half) :
    responseFrame v = [star, hexlc (v.extractLsb' 12 4), hexlc (v.extractLsb' 8 4), hexlc (v.extractLsb' 4 4),
      hexlc (v.extractLsb' 0 4), hexlc ((sum8 (hex4 v)).extractLsb' 4 4), hexlc ((sum8 (hex4 v)).extractLsb' 0 4),
      caret] := rfl

/-- The response frame of a value is well-shaped, and its checksum verifies to that value (R86, R110). -/
theorem tryDecode_responseFrame (v : Half) :
    tryDecode (responseFrame v) = .frame (hex4 v) (hex2 (sum8 (hex4 v))) := by
  rw [responseFrame_eq, tryDecode_shaped]
  · rfl
  · simp

/-- VerifyChecksum of a correct response gives the value back (R110). -/
theorem verifyChecksum_hex4 (v : Half) : verifyChecksum (hex4 v) (hex2 (sum8 (hex4 v))) = .ok v := by
  simp [verifyChecksum]

end Sys2Proof.Machine
end

