-- ==== Sys2Proof/Laws/Decode.lean ====
section
/-! SUPPORT. Lemmas about the decoder's fields and frames. -/

namespace Sys2Proof

/-- A 16-bit field as a number: 256 times its high byte plus its low byte (R79). -/
theorem halfOf_toNat (hi lo : Byte) : (halfOf hi lo).toNat = 256 * hi.toNat + lo.toNat := by
  have h := Nat.shiftLeft_add_eq_or_of_lt lo.isLt hi.toNat
  rw [halfOf, BitVec.toNat_append, ← h, Nat.shiftLeft_eq]
  omega

@[simp] theorem loByte_toNat (h : Half) : (loByte h).toNat = h.toNat % 256 := by
  simp [loByte, BitVec.extractLsb'_toNat]

@[simp] theorem hiByte_toNat (h : Half) : (hiByte h).toNat = h.toNat / 256 := by
  have := h.isLt
  simp only [hiByte, BitVec.extractLsb'_toNat, Nat.shiftRight_eq_div_pow]
  omega

/-- A field is put together from its two bytes. -/
@[simp] theorem halfOf_bytes (h : Half) : halfOf (hiByte h) (loByte h) = h := by
  apply BitVec.eq_of_toNat_eq
  rw [halfOf_toNat, hiByte_toNat, loByte_toNat]
  omega

@[simp] theorem loByte_halfOf (hi lo : Byte) : loByte (halfOf hi lo) = lo := by
  apply BitVec.eq_of_toNat_eq
  have := lo.isLt
  rw [loByte_toNat, halfOf_toNat]
  omega

@[simp] theorem hiByte_halfOf (hi lo : Byte) : hiByte (halfOf hi lo) = hi := by
  apply BitVec.eq_of_toNat_eq
  have := lo.isLt
  rw [hiByte_toNat, halfOf_toNat]
  omega

/-- A field is zero exactly when both its bytes are. -/
theorem halfOf_eq_zero (hi lo : Byte) : halfOf hi lo = 0#16 ↔ hi = 0#8 ∧ lo = 0#8 := by
  constructor
  · intro h
    exact ⟨by rw [← hiByte_halfOf hi lo, h]; rfl, by rw [← loByte_halfOf hi lo, h]; rfl⟩
  · rintro ⟨rfl, rfl⟩
    rfl

/-- A row of the table of bare host operations has a word of its own `opc` with a zero operand. -/
theorem bareHostOps_row : ∀ row ∈ bareHostOps,
    row.2.wellFormed = true ∧ row.2.port = .hostOp ∧ encode row.2 = [row.1, 0#8, 0#8] := by
  decide

/-- A row found for an `opc` is a row of the table with that `opc`. -/
theorem bareHostOps_find {opc : Byte} {row : Byte × Instr}
    (h : (bareHostOps.find? fun row => row.1 == opc) = some row) : row ∈ bareHostOps ∧ row.1 = opc :=
  ⟨List.mem_of_find?_eq_some h, by simpa using List.find?_some h⟩

/-- The code digits of each command name it in the table of R72. -/
theorem commandOfDigits_dec2 (c : Command) :
    commandOfDigits (Machine.dec2 (Machine.cmdCode CmdCodes.default c)) = some c := by
  cases c <;> decide

/-- A command found by its digits has them. -/
theorem dec2_of_commandOfDigits {cc : List Byte} {c : Command} (h : commandOfDigits cc = some c) :
    Machine.dec2 (Machine.cmdCode CmdCodes.default c) = cc := by
  simpa using List.find?_some h

/-- The frame Encode builds is read as the request frame of its command and payload (R70). -/
theorem decodeFrame_encodeFrame (c : Command) (p : Half) :
    decodeFrame (Machine.encodeFrame CmdCodes.default c p) = some (wireInstr c p) := by
  have h1 : ((Machine.encodeFrame CmdCodes.default c p).drop 1).take 2
      = Machine.dec2 (Machine.cmdCode CmdCodes.default c) := by simp [Machine.encodeFrame, Machine.dec2]
  have h3 : ((Machine.encodeFrame CmdCodes.default c p).drop 3).take 4 = Machine.hex4 p := by
    simp [Machine.encodeFrame, Machine.dec2, Machine.hex4]
  simp only [decodeFrame, h1, h3, commandOfDigits_dec2]
  simp

/-- What is read as a request frame is the frame Encode builds for some command and payload. -/
theorem encodeFrame_of_decodeFrame {f : List Byte} {i : Instr} (h : decodeFrame f = some i) :
    ∃ c p, i = wireInstr c p ∧ f = Machine.encodeFrame CmdCodes.default c p := by
  unfold decodeFrame at h
  split at h
  · rename_i c hc
    simp only [Option.ite_none_right_eq_some] at h
    exact ⟨c, _, by simpa using h.2.symm, h.1.symm⟩
  · cases h

/-- Every frame has ten bytes (R61). -/
@[simp] theorem encodeFrame_length (t : CmdCodes) (c : Command) (p : Half) :
    (Machine.encodeFrame t c p).length = 10 := by
  simp [Machine.encodeFrame, Machine.dec2, Machine.hex4, Machine.hex2]

end Sys2Proof
end

