-- ==== Sys2Proof/Laws/State.lean ====
section
/-! SUPPORT. What each named operation of Machine/Ops.lean does to each field of the state: one lemma per field per
operation, so that no later proof unfolds a record update. -/

namespace Sys2Proof.Machine

variable (s : State)

@[simp] theorem enqueue_cfg (c : Command) (p : Half) : (enqueue c p s).cfg = s.cfg := rfl
@[simp] theorem enqueue_isOpen (c : Command) (p : Half) : (enqueue c p s).isOpen = s.isOpen := rfl
@[simp] theorem enqueue_fsm (c : Command) (p : Half) : (enqueue c p s).fsm = s.fsm := rfl
@[simp] theorem enqueue_queue (c : Command) (p : Half) : (enqueue c p s).queue = s.queue ++ [⟨c, p⟩] := rfl
@[simp] theorem enqueue_rxbuf (c : Command) (p : Half) : (enqueue c p s).rxbuf = s.rxbuf := rfl
@[simp] theorem enqueue_tmrCnt (c : Command) (p : Half) : (enqueue c p s).tmrCnt = s.tmrCnt := rfl
@[simp] theorem enqueue_out (c : Command) (p : Half) : (enqueue c p s).out = s.out := rfl
@[simp] theorem enqueue_txlog (c : Command) (p : Half) : (enqueue c p s).txlog = s.txlog := rfl
@[simp] theorem enqueue_inbox (c : Command) (p : Half) : (enqueue c p s).inbox = s.inbox := rfl
@[simp] theorem enqueue_portCfg (c : Command) (p : Half) : (enqueue c p s).portCfg = s.portCfg := rfl
@[simp] theorem enqueue_draw (c : Command) (p : Half) : (enqueue c p s).draw = s.draw := rfl
@[simp] theorem enqueue_drawn (c : Command) (p : Half) : (enqueue c p s).drawn = s.drawn := rfl
@[simp] theorem enqueue_xctl (c : Command) (p : Half) : (enqueue c p s).xctl = s.xctl := rfl
@[simp] theorem enqueue_held (c : Command) (p : Half) : (enqueue c p s).held = s.held := rfl

@[simp] theorem dropHead_cfg : (dropHead s).cfg = s.cfg := rfl
@[simp] theorem dropHead_isOpen : (dropHead s).isOpen = s.isOpen := rfl
@[simp] theorem dropHead_fsm : (dropHead s).fsm = s.fsm := rfl
@[simp] theorem dropHead_queue : (dropHead s).queue = s.queue.tail := rfl
@[simp] theorem dropHead_rxbuf : (dropHead s).rxbuf = s.rxbuf := rfl
@[simp] theorem dropHead_tmrCnt : (dropHead s).tmrCnt = s.tmrCnt := rfl
@[simp] theorem dropHead_out : (dropHead s).out = s.out := rfl
@[simp] theorem dropHead_txlog : (dropHead s).txlog = s.txlog := rfl
@[simp] theorem dropHead_inbox : (dropHead s).inbox = s.inbox := rfl
@[simp] theorem dropHead_portCfg : (dropHead s).portCfg = s.portCfg := rfl
@[simp] theorem dropHead_draw : (dropHead s).draw = s.draw := rfl
@[simp] theorem dropHead_drawn : (dropHead s).drawn = s.drawn := rfl
@[simp] theorem dropHead_xctl : (dropHead s).xctl = s.xctl := rfl
@[simp] theorem dropHead_held : (dropHead s).held = s.held := rfl

@[simp] theorem clearQueue_cfg : (clearQueue s).cfg = s.cfg := rfl
@[simp] theorem clearQueue_isOpen : (clearQueue s).isOpen = s.isOpen := rfl
@[simp] theorem clearQueue_fsm : (clearQueue s).fsm = s.fsm := rfl
@[simp] theorem clearQueue_queue : (clearQueue s).queue = [] := rfl
@[simp] theorem clearQueue_rxbuf : (clearQueue s).rxbuf = s.rxbuf := rfl
@[simp] theorem clearQueue_tmrCnt : (clearQueue s).tmrCnt = s.tmrCnt := rfl
@[simp] theorem clearQueue_out : (clearQueue s).out = s.out := rfl
@[simp] theorem clearQueue_txlog : (clearQueue s).txlog = s.txlog := rfl
@[simp] theorem clearQueue_inbox : (clearQueue s).inbox = s.inbox := rfl
@[simp] theorem clearQueue_portCfg : (clearQueue s).portCfg = s.portCfg := rfl
@[simp] theorem clearQueue_draw : (clearQueue s).draw = s.draw := rfl
@[simp] theorem clearQueue_drawn : (clearQueue s).drawn = s.drawn := rfl
@[simp] theorem clearQueue_xctl : (clearQueue s).xctl = s.xctl := rfl
@[simp] theorem clearQueue_held : (clearQueue s).held = s.held := rfl

@[simp] theorem hold_cfg (c : Command) (p : Half) : (hold c p s).cfg = s.cfg := rfl
@[simp] theorem hold_isOpen (c : Command) (p : Half) : (hold c p s).isOpen = s.isOpen := rfl
@[simp] theorem hold_fsm (c : Command) (p : Half) : (hold c p s).fsm = s.fsm := rfl
@[simp] theorem hold_queue (c : Command) (p : Half) : (hold c p s).queue = s.queue := rfl
@[simp] theorem hold_rxbuf (c : Command) (p : Half) : (hold c p s).rxbuf = s.rxbuf := rfl
@[simp] theorem hold_tmrCnt (c : Command) (p : Half) : (hold c p s).tmrCnt = s.tmrCnt := rfl
@[simp] theorem hold_out (c : Command) (p : Half) : (hold c p s).out = s.out := rfl
@[simp] theorem hold_txlog (c : Command) (p : Half) : (hold c p s).txlog = s.txlog := rfl
@[simp] theorem hold_inbox (c : Command) (p : Half) : (hold c p s).inbox = s.inbox := rfl
@[simp] theorem hold_portCfg (c : Command) (p : Half) : (hold c p s).portCfg = s.portCfg := rfl
@[simp] theorem hold_draw (c : Command) (p : Half) : (hold c p s).draw = s.draw := rfl
@[simp] theorem hold_drawn (c : Command) (p : Half) : (hold c p s).drawn = s.drawn := rfl
@[simp] theorem hold_xctl (c : Command) (p : Half) : (hold c p s).xctl = s.xctl := rfl
@[simp] theorem hold_held (c : Command) (p : Half) : (hold c p s).held = s.held ++ [⟨c, p⟩] := rfl

@[simp] theorem appendBuf_cfg (bs : List Byte) : (appendBuf bs s).cfg = s.cfg := rfl
@[simp] theorem appendBuf_isOpen (bs : List Byte) : (appendBuf bs s).isOpen = s.isOpen := rfl
@[simp] theorem appendBuf_fsm (bs : List Byte) : (appendBuf bs s).fsm = s.fsm := rfl
@[simp] theorem appendBuf_queue (bs : List Byte) : (appendBuf bs s).queue = s.queue := rfl
@[simp] theorem appendBuf_rxbuf (bs : List Byte) : (appendBuf bs s).rxbuf = s.rxbuf ++ bs := rfl
@[simp] theorem appendBuf_tmrCnt (bs : List Byte) : (appendBuf bs s).tmrCnt = s.tmrCnt := rfl
@[simp] theorem appendBuf_out (bs : List Byte) : (appendBuf bs s).out = s.out := rfl
@[simp] theorem appendBuf_txlog (bs : List Byte) : (appendBuf bs s).txlog = s.txlog := rfl
@[simp] theorem appendBuf_inbox (bs : List Byte) : (appendBuf bs s).inbox = s.inbox := rfl
@[simp] theorem appendBuf_portCfg (bs : List Byte) : (appendBuf bs s).portCfg = s.portCfg := rfl
@[simp] theorem appendBuf_draw (bs : List Byte) : (appendBuf bs s).draw = s.draw := rfl
@[simp] theorem appendBuf_drawn (bs : List Byte) : (appendBuf bs s).drawn = s.drawn := rfl
@[simp] theorem appendBuf_xctl (bs : List Byte) : (appendBuf bs s).xctl = s.xctl := rfl
@[simp] theorem appendBuf_held (bs : List Byte) : (appendBuf bs s).held = s.held := rfl

@[simp] theorem clearBuf_cfg : (clearBuf s).cfg = s.cfg := rfl
@[simp] theorem clearBuf_isOpen : (clearBuf s).isOpen = s.isOpen := rfl
@[simp] theorem clearBuf_fsm : (clearBuf s).fsm = s.fsm := rfl
@[simp] theorem clearBuf_queue : (clearBuf s).queue = s.queue := rfl
@[simp] theorem clearBuf_rxbuf : (clearBuf s).rxbuf = [] := rfl
@[simp] theorem clearBuf_tmrCnt : (clearBuf s).tmrCnt = s.tmrCnt := rfl
@[simp] theorem clearBuf_out : (clearBuf s).out = s.out := rfl
@[simp] theorem clearBuf_txlog : (clearBuf s).txlog = s.txlog := rfl
@[simp] theorem clearBuf_inbox : (clearBuf s).inbox = s.inbox := rfl
@[simp] theorem clearBuf_portCfg : (clearBuf s).portCfg = s.portCfg := rfl
@[simp] theorem clearBuf_draw : (clearBuf s).draw = s.draw := rfl
@[simp] theorem clearBuf_drawn : (clearBuf s).drawn = s.drawn := rfl
@[simp] theorem clearBuf_xctl : (clearBuf s).xctl = s.xctl := rfl
@[simp] theorem clearBuf_held : (clearBuf s).held = s.held := rfl

@[simp] theorem setOpen_cfg (b : Bool) : (setOpen b s).cfg = s.cfg := rfl
@[simp] theorem setOpen_isOpen (b : Bool) : (setOpen b s).isOpen = b := rfl
@[simp] theorem setOpen_fsm (b : Bool) : (setOpen b s).fsm = s.fsm := rfl
@[simp] theorem setOpen_queue (b : Bool) : (setOpen b s).queue = s.queue := rfl
@[simp] theorem setOpen_rxbuf (b : Bool) : (setOpen b s).rxbuf = s.rxbuf := rfl
@[simp] theorem setOpen_tmrCnt (b : Bool) : (setOpen b s).tmrCnt = s.tmrCnt := rfl
@[simp] theorem setOpen_out (b : Bool) : (setOpen b s).out = s.out := rfl
@[simp] theorem setOpen_txlog (b : Bool) : (setOpen b s).txlog = s.txlog := rfl
@[simp] theorem setOpen_inbox (b : Bool) : (setOpen b s).inbox = s.inbox := rfl
@[simp] theorem setOpen_portCfg (b : Bool) : (setOpen b s).portCfg = s.portCfg := rfl
@[simp] theorem setOpen_draw (b : Bool) : (setOpen b s).draw = s.draw := rfl
@[simp] theorem setOpen_drawn (b : Bool) : (setOpen b s).drawn = s.drawn := rfl
@[simp] theorem setOpen_xctl (b : Bool) : (setOpen b s).xctl = s.xctl := rfl
@[simp] theorem setOpen_held (b : Bool) : (setOpen b s).held = s.held := rfl

@[simp] theorem setFsm_cfg (f : Fsm) : (setFsm f s).cfg = s.cfg := rfl
@[simp] theorem setFsm_isOpen (f : Fsm) : (setFsm f s).isOpen = s.isOpen := rfl
@[simp] theorem setFsm_fsm (f : Fsm) : (setFsm f s).fsm = f := rfl
@[simp] theorem setFsm_queue (f : Fsm) : (setFsm f s).queue = s.queue := rfl
@[simp] theorem setFsm_rxbuf (f : Fsm) : (setFsm f s).rxbuf = s.rxbuf := rfl
@[simp] theorem setFsm_tmrCnt (f : Fsm) : (setFsm f s).tmrCnt = s.tmrCnt := rfl
@[simp] theorem setFsm_out (f : Fsm) : (setFsm f s).out = s.out := rfl
@[simp] theorem setFsm_txlog (f : Fsm) : (setFsm f s).txlog = s.txlog := rfl
@[simp] theorem setFsm_inbox (f : Fsm) : (setFsm f s).inbox = s.inbox := rfl
@[simp] theorem setFsm_portCfg (f : Fsm) : (setFsm f s).portCfg = s.portCfg := rfl
@[simp] theorem setFsm_draw (f : Fsm) : (setFsm f s).draw = s.draw := rfl
@[simp] theorem setFsm_drawn (f : Fsm) : (setFsm f s).drawn = s.drawn := rfl
@[simp] theorem setFsm_xctl (f : Fsm) : (setFsm f s).xctl = s.xctl := rfl
@[simp] theorem setFsm_held (f : Fsm) : (setFsm f s).held = s.held := rfl

@[simp] theorem setTimer_cfg (n : Nat) : (setTimer n s).cfg = s.cfg := rfl
@[simp] theorem setTimer_isOpen (n : Nat) : (setTimer n s).isOpen = s.isOpen := rfl
@[simp] theorem setTimer_fsm (n : Nat) : (setTimer n s).fsm = s.fsm := rfl
@[simp] theorem setTimer_queue (n : Nat) : (setTimer n s).queue = s.queue := rfl
@[simp] theorem setTimer_rxbuf (n : Nat) : (setTimer n s).rxbuf = s.rxbuf := rfl
@[simp] theorem setTimer_tmrCnt (n : Nat) : (setTimer n s).tmrCnt = n := rfl
@[simp] theorem setTimer_out (n : Nat) : (setTimer n s).out = s.out := rfl
@[simp] theorem setTimer_txlog (n : Nat) : (setTimer n s).txlog = s.txlog := rfl
@[simp] theorem setTimer_inbox (n : Nat) : (setTimer n s).inbox = s.inbox := rfl
@[simp] theorem setTimer_portCfg (n : Nat) : (setTimer n s).portCfg = s.portCfg := rfl
@[simp] theorem setTimer_draw (n : Nat) : (setTimer n s).draw = s.draw := rfl
@[simp] theorem setTimer_drawn (n : Nat) : (setTimer n s).drawn = s.drawn := rfl
@[simp] theorem setTimer_xctl (n : Nat) : (setTimer n s).xctl = s.xctl := rfl
@[simp] theorem setTimer_held (n : Nat) : (setTimer n s).held = s.held := rfl

@[simp] theorem emit_cfg (r : Record) : (emit r s).cfg = s.cfg := rfl
@[simp] theorem emit_isOpen (r : Record) : (emit r s).isOpen = s.isOpen := rfl
@[simp] theorem emit_fsm (r : Record) : (emit r s).fsm = s.fsm := rfl
@[simp] theorem emit_queue (r : Record) : (emit r s).queue = s.queue := rfl
@[simp] theorem emit_rxbuf (r : Record) : (emit r s).rxbuf = s.rxbuf := rfl
@[simp] theorem emit_tmrCnt (r : Record) : (emit r s).tmrCnt = s.tmrCnt := rfl
@[simp] theorem emit_out (r : Record) : (emit r s).out = s.out ++ [r] := rfl
@[simp] theorem emit_txlog (r : Record) : (emit r s).txlog = s.txlog := rfl
@[simp] theorem emit_inbox (r : Record) : (emit r s).inbox = s.inbox := rfl
@[simp] theorem emit_portCfg (r : Record) : (emit r s).portCfg = s.portCfg := rfl
@[simp] theorem emit_draw (r : Record) : (emit r s).draw = s.draw := rfl
@[simp] theorem emit_drawn (r : Record) : (emit r s).drawn = s.drawn := rfl
@[simp] theorem emit_xctl (r : Record) : (emit r s).xctl = s.xctl := rfl
@[simp] theorem emit_held (r : Record) : (emit r s).held = s.held := rfl

@[simp] theorem send_cfg (f : List Byte) : (send f s).cfg = s.cfg := rfl
@[simp] theorem send_isOpen (f : List Byte) : (send f s).isOpen = s.isOpen := rfl
@[simp] theorem send_fsm (f : List Byte) : (send f s).fsm = s.fsm := rfl
@[simp] theorem send_queue (f : List Byte) : (send f s).queue = s.queue := rfl
@[simp] theorem send_rxbuf (f : List Byte) : (send f s).rxbuf = s.rxbuf := rfl
@[simp] theorem send_tmrCnt (f : List Byte) : (send f s).tmrCnt = s.tmrCnt := rfl
@[simp] theorem send_out (f : List Byte) : (send f s).out = s.out := rfl
@[simp] theorem send_txlog (f : List Byte) : (send f s).txlog = s.txlog ++ [⟨f, answer s⟩] := rfl
@[simp] theorem send_inbox (f : List Byte) : (send f s).inbox = s.inbox := rfl
@[simp] theorem send_portCfg (f : List Byte) : (send f s).portCfg = s.portCfg := rfl
@[simp] theorem send_draw (f : List Byte) : (send f s).draw = s.draw := rfl
@[simp] theorem send_drawn (f : List Byte) : (send f s).drawn = s.drawn + 1 := rfl
@[simp] theorem send_xctl (f : List Byte) : (send f s).xctl = s.xctl := rfl
@[simp] theorem send_held (f : List Byte) : (send f s).held = s.held := rfl

@[simp] theorem xopen_cfg : (xopen s).cfg = s.cfg := rfl
@[simp] theorem xopen_isOpen : (xopen s).isOpen = s.isOpen := rfl
@[simp] theorem xopen_fsm : (xopen s).fsm = s.fsm := rfl
@[simp] theorem xopen_queue : (xopen s).queue = s.queue := rfl
@[simp] theorem xopen_rxbuf : (xopen s).rxbuf = s.rxbuf := rfl
@[simp] theorem xopen_tmrCnt : (xopen s).tmrCnt = s.tmrCnt := rfl
@[simp] theorem xopen_out : (xopen s).out = s.out := rfl
@[simp] theorem xopen_txlog : (xopen s).txlog = s.txlog := rfl
@[simp] theorem xopen_inbox : (xopen s).inbox = s.inbox := rfl
@[simp] theorem xopen_portCfg : (xopen s).portCfg = s.portCfg := rfl
@[simp] theorem xopen_draw : (xopen s).draw = s.draw := rfl
@[simp] theorem xopen_drawn : (xopen s).drawn = s.drawn + 1 := rfl
@[simp] theorem xopen_xctl : (xopen s).xctl = s.xctl ++ [.xopen s.portCfg (answer s)] := rfl
@[simp] theorem xopen_held : (xopen s).held = s.held := rfl

@[simp] theorem xclose_cfg : (xclose s).cfg = s.cfg := rfl
@[simp] theorem xclose_isOpen : (xclose s).isOpen = s.isOpen := rfl
@[simp] theorem xclose_fsm : (xclose s).fsm = s.fsm := rfl
@[simp] theorem xclose_queue : (xclose s).queue = s.queue := rfl
@[simp] theorem xclose_rxbuf : (xclose s).rxbuf = s.rxbuf := rfl
@[simp] theorem xclose_tmrCnt : (xclose s).tmrCnt = s.tmrCnt := rfl
@[simp] theorem xclose_out : (xclose s).out = s.out := rfl
@[simp] theorem xclose_txlog : (xclose s).txlog = s.txlog := rfl
@[simp] theorem xclose_inbox : (xclose s).inbox = s.inbox := rfl
@[simp] theorem xclose_portCfg : (xclose s).portCfg = s.portCfg := rfl
@[simp] theorem xclose_draw : (xclose s).draw = s.draw := rfl
@[simp] theorem xclose_drawn : (xclose s).drawn = s.drawn := rfl
@[simp] theorem xclose_xctl : (xclose s).xctl = s.xctl ++ [.xclose] := rfl
@[simp] theorem xclose_held : (xclose s).held = s.held := rfl

@[simp] theorem clearLink_cfg : (clearLink s).cfg = s.cfg := rfl
@[simp] theorem clearLink_isOpen : (clearLink s).isOpen = s.isOpen := rfl
@[simp] theorem clearLink_fsm : (clearLink s).fsm = .idle := rfl
@[simp] theorem clearLink_queue : (clearLink s).queue = [] := rfl
@[simp] theorem clearLink_rxbuf : (clearLink s).rxbuf = [] := rfl
@[simp] theorem clearLink_tmrCnt : (clearLink s).tmrCnt = 0 := rfl
@[simp] theorem clearLink_out : (clearLink s).out = s.out := rfl
@[simp] theorem clearLink_txlog : (clearLink s).txlog = s.txlog := rfl
@[simp] theorem clearLink_inbox : (clearLink s).inbox = s.inbox := rfl
@[simp] theorem clearLink_portCfg : (clearLink s).portCfg = s.portCfg := rfl
@[simp] theorem clearLink_draw : (clearLink s).draw = s.draw := rfl
@[simp] theorem clearLink_drawn : (clearLink s).drawn = s.drawn := rfl
@[simp] theorem clearLink_xctl : (clearLink s).xctl = s.xctl := rfl
@[simp] theorem clearLink_held : (clearLink s).held = s.held := rfl

@[simp] theorem raiseError_cfg (k : ErrorKind) (c : Command) (d : Byte) : (raiseError k c d s).cfg = s.cfg := rfl
@[simp] theorem raiseError_isOpen (k : ErrorKind) (c : Command) (d : Byte) : (raiseError k c d s).isOpen = s.isOpen := rfl
@[simp] theorem raiseError_fsm (k : ErrorKind) (c : Command) (d : Byte) : (raiseError k c d s).fsm = s.fsm := rfl
@[simp] theorem raiseError_queue (k : ErrorKind) (c : Command) (d : Byte) : (raiseError k c d s).queue = s.queue := rfl
@[simp] theorem raiseError_rxbuf (k : ErrorKind) (c : Command) (d : Byte) : (raiseError k c d s).rxbuf = s.rxbuf := rfl
@[simp] theorem raiseError_tmrCnt (k : ErrorKind) (c : Command) (d : Byte) : (raiseError k c d s).tmrCnt = s.tmrCnt := rfl
@[simp] theorem raiseError_out (k : ErrorKind) (c : Command) (d : Byte) : (raiseError k c d s).out = s.out ++ [.nError k (cmdTag s.cfg.cmdCode c) d] := rfl
@[simp] theorem raiseError_txlog (k : ErrorKind) (c : Command) (d : Byte) : (raiseError k c d s).txlog = s.txlog := rfl
@[simp] theorem raiseError_inbox (k : ErrorKind) (c : Command) (d : Byte) : (raiseError k c d s).inbox = s.inbox := rfl
@[simp] theorem raiseError_portCfg (k : ErrorKind) (c : Command) (d : Byte) : (raiseError k c d s).portCfg = s.portCfg := rfl
@[simp] theorem raiseError_draw (k : ErrorKind) (c : Command) (d : Byte) : (raiseError k c d s).draw = s.draw := rfl
@[simp] theorem raiseError_drawn (k : ErrorKind) (c : Command) (d : Byte) : (raiseError k c d s).drawn = s.drawn := rfl
@[simp] theorem raiseError_xctl (k : ErrorKind) (c : Command) (d : Byte) : (raiseError k c d s).xctl = s.xctl := rfl
@[simp] theorem raiseError_held (k : ErrorKind) (c : Command) (d : Byte) : (raiseError k c d s).held = s.held := rfl

@[simp] theorem resolveHead_cfg : (resolveHead s).cfg = s.cfg := rfl
@[simp] theorem resolveHead_isOpen : (resolveHead s).isOpen = s.isOpen := rfl
@[simp] theorem resolveHead_fsm : (resolveHead s).fsm = .idle := rfl
@[simp] theorem resolveHead_queue : (resolveHead s).queue = s.queue.tail := rfl
@[simp] theorem resolveHead_rxbuf : (resolveHead s).rxbuf = [] := rfl
@[simp] theorem resolveHead_tmrCnt : (resolveHead s).tmrCnt = 0 := rfl
@[simp] theorem resolveHead_out : (resolveHead s).out = s.out := rfl
@[simp] theorem resolveHead_txlog : (resolveHead s).txlog = s.txlog := rfl
@[simp] theorem resolveHead_inbox : (resolveHead s).inbox = s.inbox := rfl
@[simp] theorem resolveHead_portCfg : (resolveHead s).portCfg = s.portCfg := rfl
@[simp] theorem resolveHead_draw : (resolveHead s).draw = s.draw := rfl
@[simp] theorem resolveHead_drawn : (resolveHead s).drawn = s.drawn := rfl
@[simp] theorem resolveHead_xctl : (resolveHead s).xctl = s.xctl := rfl
@[simp] theorem resolveHead_held : (resolveHead s).held = s.held := rfl

@[simp] theorem takeError_cfg (k : ErrorKind) (d : Byte) : (takeError k d s).cfg = s.cfg := rfl
@[simp] theorem takeError_isOpen (k : ErrorKind) (d : Byte) : (takeError k d s).isOpen = s.isOpen := rfl
@[simp] theorem takeError_fsm (k : ErrorKind) (d : Byte) : (takeError k d s).fsm = .idle := rfl
@[simp] theorem takeError_queue (k : ErrorKind) (d : Byte) : (takeError k d s).queue = s.queue.tail := rfl
@[simp] theorem takeError_rxbuf (k : ErrorKind) (d : Byte) : (takeError k d s).rxbuf = [] := rfl
@[simp] theorem takeError_tmrCnt (k : ErrorKind) (d : Byte) : (takeError k d s).tmrCnt = 0 := rfl
@[simp] theorem takeError_out (k : ErrorKind) (d : Byte) : (takeError k d s).out = s.out ++ [.nError k (headTag s) d] := rfl
@[simp] theorem takeError_txlog (k : ErrorKind) (d : Byte) : (takeError k d s).txlog = s.txlog := rfl
@[simp] theorem takeError_inbox (k : ErrorKind) (d : Byte) : (takeError k d s).inbox = s.inbox := rfl
@[simp] theorem takeError_portCfg (k : ErrorKind) (d : Byte) : (takeError k d s).portCfg = s.portCfg := rfl
@[simp] theorem takeError_draw (k : ErrorKind) (d : Byte) : (takeError k d s).draw = s.draw := rfl
@[simp] theorem takeError_drawn (k : ErrorKind) (d : Byte) : (takeError k d s).drawn = s.drawn := rfl
@[simp] theorem takeError_xctl (k : ErrorKind) (d : Byte) : (takeError k d s).xctl = s.xctl := rfl
@[simp] theorem takeError_held (k : ErrorKind) (d : Byte) : (takeError k d s).held = s.held := rfl

end Sys2Proof.Machine
end

