-- ==== Sys2Proof/Laws/Ops.lean ====
section
/-! SUPPORT. One lemma per shared operation that says once everything it can do; proofs cite these and do not unfold the
operations. -/

namespace Sys2Proof.Machine

variable {s : State}

/-- The timer runs exactly in AWAIT (R26). -/
@[simp] theorem tmrRunning_iff : tmrRunning s = true ↔ s.fsm = .await := by
  simp [tmrRunning]

/-- The timer is stopped exactly in IDLE (R26). -/
@[simp] theorem tmrRunning_false_iff : tmrRunning s = false ↔ s.fsm = .idle := by
  cases h : s.fsm <;> simp [tmrRunning, h]

/-- The queue is full exactly when its length is the finite depth (R123). -/
theorem queueFull_iff : queueFull s = true ↔ s.cfg.qDepth = some s.queue.length := by
  simp [queueFull]

/-- The guard of DISPATCH (R131). -/
theorem canDispatch_iff : canDispatch s = true ↔ s.isOpen = true ∧ s.fsm = .idle ∧ s.queue ≠ [] := by
  simp [canDispatch, and_assoc]

/-- A request raises NotOpen, waits at a full queue, or is enqueued (R123). -/
theorem request_cases (c : Command) (p : Half) (s : State) :
    (s.isOpen = false ∧ request c p s = raiseError .notOpen c 0#8 s) ∨
    (s.isOpen = true ∧ s.cfg.qDepth = some s.queue.length ∧ request c p s = hold c p s) ∨
    (s.isOpen = true ∧ s.cfg.qDepth ≠ some s.queue.length ∧ request c p s = enqueue c p s) := by
  cases ho : s.isOpen
  · exact .inl ⟨rfl, by simp [request, ho]⟩
  · by_cases hf : s.cfg.qDepth = some s.queue.length
    · exact .inr (.inl ⟨rfl, hf, by simp [request, ho, queueFull_iff.2 hf]⟩)
    · have : queueFull s = false := Bool.eq_false_iff.2 (mt queueFull_iff.1 hf)
      exact .inr (.inr ⟨rfl, hf, by simp [request, ho, this]⟩)

/-- A resolved frame reports its value (R151) or takes a ChecksumMismatch (R152), after its N_RAWFRAME (R150). -/
theorem resolveFrame_cases (buf d k : List Byte) (s : State) :
    (∃ v, verifyChecksum d k = .ok v ∧ resolveFrame buf d k s =
      resolveHead (emit (.nValue v (headTag s)) (emit (.nRawFrame buf) (setTimer 0 s)))) ∨
    (verifyChecksum d k = .mismatch ∧ resolveFrame buf d k s =
      takeError .checksumMismatch 0#8 (emit (.nRawFrame buf) (setTimer 0 s))) := by
  cases h : verifyChecksum d k with
  | ok v => exact .inl ⟨v, rfl, by simp [resolveFrame, h, headTag, headCmd]⟩
  | mismatch => exact .inr ⟨rfl, by simp [resolveFrame, h]⟩

/-- Received bytes are discarded in IDLE, kept while they make no frame, or resolve the head (R150, R153). -/
theorem receive_cases (bs : List Byte) (s : State) :
    (s.fsm = .idle ∧ receive bs s = s) ∨
    (s.fsm = .await ∧ shapeOK (s.rxbuf ++ bs) = false ∧ receive bs s = appendBuf bs s) ∨
    (∃ d k, s.fsm = .await ∧ tryDecode (s.rxbuf ++ bs) = .frame d k ∧
      receive bs s = resolveFrame (s.rxbuf ++ bs) d k s) := by
  cases hf : s.fsm
  · exact .inl ⟨rfl, by simp [receive, tmrRunning, hf]⟩
  · right
    have hr : tmrRunning s = true := by simp [hf]
    cases ht : tryDecode (s.rxbuf ++ bs) with
    | frame d k => exact .inr ⟨d, k, rfl, rfl, by simp [receive, hr, ht]⟩
    | incomplete | invalidShape =>
      refine .inl ⟨rfl, ?_, by simp [receive, hr, ht]⟩
      by_contra h
      rw [Bool.not_eq_false] at h
      simp [tryDecode, h] at ht

/-- A tick does nothing in IDLE, counts down, or takes the timeout (R154, R155). -/
theorem tick_cases (s : State) :
    (s.fsm = .idle ∧ tick s = s) ∨
    (s.fsm = .await ∧ 2 ≤ s.tmrCnt ∧ tick s = setTimer (s.tmrCnt - 1) s) ∨
    (s.fsm = .await ∧ s.tmrCnt ≤ 1 ∧ tick s = takeError .responseTimeout 0#8 (setTimer 0 s)) := by
  cases hf : s.fsm
  · exact .inl ⟨rfl, by simp [tick, tmrRunning, hf]⟩
  · right
    have hr : tmrRunning s = true := by simp [hf]
    by_cases h : s.tmrCnt ≤ 1
    · refine .inr ⟨rfl, h, ?_⟩
      have h0 : s.tmrCnt - 1 = 0 := by omega
      simp [tick, hr, h0]
    · refine .inl ⟨rfl, by omega, ?_⟩
      have h0 : s.tmrCnt - 1 ≠ 0 := by omega
      simp [tick, hr, h0]

/-- A dispatch tick does nothing without its guard; with it, it sends the head's frame, and on ok awaits (R131). -/
theorem transmit_cases (s : State) :
    ((s.isOpen = false ∨ s.fsm = .await ∨ s.queue = []) ∧ transmit s = s) ∨
    (∃ e q, s.isOpen = true ∧ s.fsm = .idle ∧ s.queue = e :: q ∧
      ((answer s = .ok ∧ transmit s =
          setTimer s.cfg.tTimeout (setFsm .await (send (encodeFrame s.cfg.cmdCode e.cmd e.payload) s))) ∨
       (answer s = .fail ∧ transmit s = send (encodeFrame s.cfg.cmdCode e.cmd e.payload) s))) := by
  by_cases hg : canDispatch s = true
  · right
    obtain ⟨ho, hf, hq⟩ := canDispatch_iff.1 hg
    obtain ⟨e, q, hq⟩ := List.exists_cons_of_ne_nil hq
    refine ⟨e, q, ho, hf, hq, ?_⟩
    cases ha : answer s
    · exact .inl ⟨rfl, by simp [transmit, hg, peekHead, hq, ha]⟩
    · exact .inr ⟨rfl, by simp [transmit, hg, peekHead, hq, ha]⟩
  · refine .inl ⟨?_, by simp [transmit, hg]⟩
    rw [canDispatch_iff] at hg
    cases ho : s.isOpen <;> cases hf : s.fsm <;> simp_all

/-- OPEN does nothing while open; else it calls the transport, and on ok opens the cleared block (R120). -/
theorem connect_cases (s : State) :
    (s.isOpen = true ∧ connect s = s) ∨
    (s.isOpen = false ∧ answer s = .ok ∧ connect s = clearLink (setOpen true (xopen s))) ∨
    (s.isOpen = false ∧ answer s = .fail ∧ connect s = xopen s) := by
  cases ho : s.isOpen <;> cases ha : answer s <;> simp [connect, ho, ha]

/-- CLOSE leaves the closed, cleared link, and calls the transport only if it was open (R121). -/
theorem disconnect_cases (s : State) :
    (s.isOpen = true ∧ disconnect s = clearLink (setOpen false (xclose s))) ∨
    (s.isOpen = false ∧ disconnect s = clearLink (setOpen false s)) := by
  cases ho : s.isOpen <;> simp [disconnect, ho]

end Sys2Proof.Machine
end

