-- ==== Sys2Proof/Laws/PerInstr.lean ====
section
/-! SUPPORT. The per-instruction family WordLength: the length R79 reads off a word's first bytes is the length of the words
the encoder gives that instruction. -/

namespace Sys2Proof.Laws.WordLength

/-- R79 for one instruction. -/
def Statement (i : Instr) : Prop :=
  i.wellFormed = true → wordLength i.port (encode i) = (encode i).length

theorem openLink : Statement .openLink := fun _ => rfl

theorem closeLink : Statement .closeLink := fun _ => rfl

theorem isOpen : Statement .isOpen := fun _ => rfl

theorem setTemperature (payload : Half) : Statement (.setTemperature payload) := fun _ => rfl

theorem readTemperature : Statement .readTemperature := fun _ => rfl

theorem readSetTemperature : Statement .readSetTemperature := fun _ => rfl

theorem readOutput : Statement .readOutput := fun _ => rfl

theorem readSensorStatus : Statement .readSensorStatus := fun _ => rfl

theorem setPowerStatus (b : Bool) : Statement (.setPowerStatus b) := fun _ => rfl

theorem readPowerStatus : Statement .readPowerStatus := fun _ => rfl

theorem dispatch : Statement .dispatch := fun _ => rfl

theorem rxChunk (bytes : List Byte) : Statement (.rxChunk bytes) := by
  intro h
  have h' : 1 ≤ bytes.length ∧ bytes.length ≤ 255 := by simpa [Instr.wellFormed] using h
  simp [wordLength, Instr.port, encode]
  omega

theorem lineError (kind : BitVec 7) (fatal : Bool) : Statement (.lineError kind fatal) := fun _ => rfl

theorem timeTick : Statement .timeTick := fun _ => rfl

theorem reset : Statement .reset := fun _ => rfl

theorem nValue (cmd : Byte) (value : Half) : Statement (.nValue cmd value) := fun _ => rfl

theorem nError (cmd kind detail : Byte) : Statement (.nError cmd kind detail) := fun _ => rfl

theorem nRawFrame (frame : List Byte) : Statement (.nRawFrame frame) := by
  intro h
  have h' : frame.length = 8 := by simpa [Instr.wellFormed] using h
  simp [wordLength, Instr.port, encode, h']

theorem nFatal (detail : Byte) : Statement (.nFatal detail) := fun _ => rfl

theorem rIsOpen (b : Bool) : Statement (.rIsOpen b) := fun _ => rfl

theorem wireNone (payload : Half) : Statement (.wireNone payload) := fun _ => rfl

theorem wireGetTemp (payload : Half) : Statement (.wireGetTemp payload) := fun _ => rfl

theorem wireGetOutput (payload : Half) : Statement (.wireGetOutput payload) := fun _ => rfl

theorem wireGetSensorStatus (payload : Half) : Statement (.wireGetSensorStatus payload) := fun _ => rfl

theorem wireGetSetTemp (payload : Half) : Statement (.wireGetSetTemp payload) := fun _ => rfl

theorem wireGetPowerStatus (payload : Half) : Statement (.wireGetPowerStatus payload) := fun _ => rfl

theorem wireSetTemp (payload : Half) : Statement (.wireSetTemp payload) := fun _ => rfl

theorem wireSetPowerStatus (payload : Half) : Statement (.wireSetPowerStatus payload) := fun _ => rfl

theorem wireResponse (d0 d1 d2 d3 k0 k1 : Byte) : Statement (.wireResponse d0 d1 d2 d3 k0 k1) := fun _ => rfl

end Sys2Proof.Laws.WordLength
end

