-- ==== Sys2Proof/Laws/Step.lean ====
section
/-! SUPPORT. What an instruction and a step can do: the inversion lemmas of `exec` and `step`. -/

namespace Sys2Proof.Machine

/-- A command request runs `Request(c, p)` of its row (R124-R130). -/
theorem exec_request {i : Instr} {opc : Byte} {opnd : Half} {c : Command} {p : Half}
    (h : requestRow i = some (opc, opnd, c, p)) (s : State) : exec i s = .next (request c p s) := by
  cases i
  case setTemperature => cases h; rfl
  case readTemperature => cases h; rfl
  case readSetTemperature => cases h; rfl
  case readOutput => cases h; rfl
  case readSensorStatus => cases h; rfl
  case readPowerStatus => cases h; rfl
  case setPowerStatus b =>
    cases h
    show Host.Outcome.next (request .setPowerStatus (powerPayload b) s) = _
    cases b <;> rfl
  all_goals cases h

/-- An instruction that answers a next state is one of these events, with this effect; every other row is refused. -/
theorem exec_cases {i : Instr} {s t : State} (h : exec i s = .next t) :
    (i = .openLink ∧ t = connect s) ∨
    (i = .closeLink ∧ t = disconnect s) ∨
    (i = .isOpen ∧ t = emit (.rIsOpen s.isOpen) s) ∨
    (∃ opc opnd c p, requestRow i = some (opc, opnd, c, p) ∧ t = request c p s) ∨
    (i = .dispatch ∧ t = transmit s) ∨
    (∃ bs, (i = .rxChunk bs ∨ ∃ d0 d1 d2 d3 k0 k1, i = .wireResponse d0 d1 d2 d3 k0 k1 ∧
        bs = [star, d0, d1, d2, d3, k0, k1, caret]) ∧ t = receive bs s) ∨
    (∃ kind fatal, i = .lineError kind fatal ∧ t = lineFault (faultDetail kind) fatal s) ∨
    (i = .timeTick ∧ t = tick s) ∨
    (i = .reset ∧ t = clearLink (setOpen false s)) := by
  cases hr : requestRow i with
  | some row =>
    obtain ⟨opc, opnd, c, p⟩ := row
    rw [exec_request hr] at h
    cases h
    exact .inr (.inr (.inr (.inl ⟨opc, opnd, c, p, rfl, rfl⟩)))
  | none =>
    cases i
    case openLink => cases h; exact .inl ⟨rfl, rfl⟩
    case closeLink => cases h; exact .inr (.inl ⟨rfl, rfl⟩)
    case isOpen => cases h; exact .inr (.inr (.inl ⟨rfl, rfl⟩))
    case dispatch => cases h; exact .inr (.inr (.inr (.inr (.inl ⟨rfl, rfl⟩))))
    case rxChunk bs => cases h; exact .inr (.inr (.inr (.inr (.inr (.inl ⟨bs, .inl rfl, rfl⟩)))))
    case wireResponse d0 d1 d2 d3 k0 k1 =>
      cases h
      exact .inr (.inr (.inr (.inr (.inr (.inl ⟨_, .inr ⟨d0, d1, d2, d3, k0, k1, rfl, rfl⟩, rfl⟩)))))
    case lineError kind fatal =>
      cases h
      exact .inr (.inr (.inr (.inr (.inr (.inr (.inl ⟨kind, fatal, rfl, rfl⟩))))))
    case timeTick => cases h; exact .inr (.inr (.inr (.inr (.inr (.inr (.inr (.inl ⟨rfl, rfl⟩)))))))
    case reset => cases h; exact .inr (.inr (.inr (.inr (.inr (.inr (.inr (.inr ⟨rfl, rfl⟩)))))))
    all_goals first | (cases hr; done) | cases h

/-- Bytes that decode are read as the word they spell. -/
theorem readInput_of_decode {inp : Input} {i : Instr} {rest : List Byte} (h : decode inp.port inp.bytes = .word i rest) :
    readInput inp = .word i rest := by
  simp [readInput, h]

/-- An input is read as the word it spells, or as a chunk received on `line` (R82). -/
theorem readInput_cases {inp : Input} {i : Instr} {rest : List Byte} (h : readInput inp = .word i rest) :
    decode inp.port inp.bytes = .word i rest ∨
    (inp.port = .line ∧ inp.bytes ≠ [] ∧ i = .rxChunk (inp.bytes.take 255) ∧ rest = inp.bytes.drop 255) := by
  unfold readInput at h
  split at h
  · rename_i hd
    exact .inl (hd.trans h)
  · unfold rawChunk at h
    split at h
    · split at h
      · cases h
      · rename_i hp hb
        cases h
        exact .inr ⟨hp, by simpa using hb, rfl, rfl⟩
    · cases h

/-- What is refused on every port but `line` is refused by the decoder's name. -/
theorem readInput_of_refused {inp : Input} {e : DecodeError} (h : decode inp.port inp.bytes = .refused e)
    (hp : inp.port ≠ .line) : readInput inp = .refused e := by
  simp [readInput, h, hp]

/-- Behind a waiting host word, `firstChosen` finds the first input of another agent. -/
theorem firstChosen_behind_iff {l passed later : List Input} {inp : Input} :
    firstChosen true true l = some ⟨passed, inp, later⟩ ↔
      l = passed ++ inp :: later ∧ otherAgent inp = true ∧ ∀ w ∈ passed, otherAgent w = false := by
  induction l generalizing passed with
  | nil => simp [firstChosen]
  | cons x l ih =>
    have hm : mayStep true true x = otherAgent x := by simp [mayStep]
    rw [firstChosen, hm]
    cases hx : otherAgent x
    · simp only [Bool.false_eq_true, if_false, Option.map_eq_some_iff]
      constructor
      · rintro ⟨⟨p, i, t⟩, hc, h⟩
        cases h
        obtain ⟨rfl, h2, h3⟩ := ih.1 hc
        exact ⟨rfl, h2, by simpa [hx] using h3⟩
      · rintro ⟨h1, h2, h3⟩
        cases passed with
        | nil => cases h1; simp [hx] at h2
        | cons y passed =>
          cases h1
          exact ⟨_, ih.2 ⟨rfl, h2, fun w hw => h3 w (List.mem_cons_of_mem _ hw)⟩, rfl⟩
    · constructor
      · intro h; cases h; simp [hx]
      · rintro ⟨h1, -, h3⟩
        cases passed with
        | nil => cases h1; rfl
        | cons y passed => cases h1; simp [hx] at h3

/-- `chosen` finds exactly the next input to take its step. -/
theorem chosen_iff {s : State} {passed later : List Input} {inp : Input} :
    chosen s = some ⟨passed, inp, later⟩ ↔ NextInput s passed inp later := by
  unfold chosen NextInput
  rcases s.inbox with _ | ⟨x, l⟩
  · simp [firstChosen]
  rcases hh : s.held with _ | ⟨e, es⟩
  · have hm : mayStep false false x = true := rfl
    simp only [List.isEmpty_nil, Bool.not_true, firstChosen, hm, if_true, Option.some.injEq, Chosen.mk.injEq,
      ne_eq, not_true, false_and, or_false, true_and]
    constructor
    · rintro ⟨rfl, rfl, rfl⟩; simp
    · rintro ⟨h, rfl⟩; cases h; simp
  · have hm : mayStep true false x = (otherAgent x || spells x .closeLink) := by simp [mayStep]
    simp only [List.isEmpty_cons, Bool.not_false, firstChosen, hm, reduceCtorEq, false_and, false_or, ne_eq,
      not_false_eq_true, true_and]
    cases hx : (otherAgent x || spells x .closeLink)
    · obtain ⟨ho, hc⟩ := Bool.or_eq_false_iff.1 hx
      simp only [Bool.false_eq_true, if_false, Option.map_eq_some_iff]
      constructor
      · rintro ⟨⟨p, i, t⟩, h, h'⟩
        cases h'
        obtain ⟨rfl, h2, h3⟩ := firstChosen_behind_iff.1 h
        exact ⟨rfl, .inr ⟨h2, by simpa [ho] using h3, by simp [hc]⟩⟩
      · rintro ⟨h1, ⟨rfl, h2⟩ | ⟨h2, h3, -⟩⟩
        · cases h1; simp [hc] at h2
        · cases passed with
          | nil => cases h1; simp [ho] at h2
          | cons y passed =>
            cases h1
            exact ⟨_, firstChosen_behind_iff.2 ⟨rfl, h2, fun w hw => h3 w (List.mem_cons_of_mem _ hw)⟩, rfl⟩
    · simp only [if_true, Option.some.injEq, Chosen.mk.injEq]
      constructor
      · rintro ⟨rfl, rfl, rfl⟩
        refine ⟨rfl, ?_⟩
        rcases Bool.or_eq_true_iff.1 hx with h | h <;> simp [h]
      · rintro ⟨h1, ⟨rfl, h2⟩ | ⟨h2, h3, h4⟩⟩
        · cases h1; simp
        · cases passed with
          | nil => cases h1; simp
          | cons y passed => cases h1; simp_all

/-- The held request goes when it has its step and every next input lets it go first (R181). -/
theorem heldGoes_iff {s : State} : heldGoes s = true ↔
    heldReady s = true ∧ ∀ passed inp later, NextInput s passed inp later → inp.heldFirst = true := by
  unfold heldGoes
  simp only [Bool.and_eq_true, ← chosen_iff]
  refine and_congr_right fun _ => ?_
  rcases chosen s with _ | ⟨p, i, t⟩
  · simp
  · exact ⟨fun h _ _ _ h' => by cases h'; exact h, fun h => h _ _ _ rfl⟩

/-- What a step fetches an instruction from: the next input, which is read as it. -/
theorem fetch_instr {s s' : State} {i : Instr} (h : fetch s = .instr i s') :
    ∃ passed inp later rest, NextInput s passed inp later ∧ readInput inp = .word i rest ∧
      s' = takeInput ⟨passed, inp, later⟩ rest s := by
  unfold fetch at h
  split at h
  · cases h
  · split at h
    · cases h
    · rename_i c hc
      split at h
      · rename_i rest hd
        cases h
        exact ⟨c.passed, c.inp, c.later, rest, chosen_iff.1 hc, hd, rfl⟩
      · cases h

/-- A step that answers a next state idles, takes a held request, or runs the instruction of the next input. -/
theorem step_cases {s t : State} (h : step s = .next t) :
    (t = s) ∨
    (∃ e later, s.held = e :: later ∧ requestHasStep s = true ∧
      t = request e.cmd e.payload { s with held := later }) ∨
    (∃ passed inp later i rest, NextInput s passed inp later ∧ readInput inp = .word i rest ∧
      exec i (takeInput ⟨passed, inp, later⟩ rest s) = .next t) := by
  unfold step at h
  split at h
  · exact .inl (by simpa using h.symm)
  · rename_i e s' hf
    refine .inr (.inl ?_)
    unfold fetch at hf
    split at hf
    · rename_i e' later hr hh
      cases hf
      exact ⟨e, later, hh, by simpa [heldReady, hh] using (heldGoes_iff.1 hr).1, by simpa using h.symm⟩
    · split at hf
      · cases hf
      · split at hf <;> cases hf
  · cases h
  · rename_i i s' hf
    obtain ⟨passed, inp, later, rest, hn, hd, rfl⟩ := fetch_instr hf
    exact .inr (.inr ⟨passed, inp, later, i, rest, hn, hd, h⟩)

/-- A next input that the held request does not precede is what a step reads. -/
theorem fetch_of_next {s : State} {passed later : List Input} {inp : Input} (hn : NextInput s passed inp later)
    (hf : heldReady s = false ∨ inp.heldFirst = false) :
    fetch s = match readInput inp with
      | .word i rest => .instr i (takeInput ⟨passed, inp, later⟩ rest s)
      | .refused e => .refused e := by
  have hg : heldGoes s = false := by
    rw [Bool.eq_false_iff, ne_eq, heldGoes_iff]
    rintro ⟨h1, h2⟩
    rcases hf with h | h
    · simp [h] at h1
    · simp [h2 _ _ _ hn] at h
  cases hd : readInput inp <;> simp [fetch, hg, chosen_iff.2 hn, hd]

/-- Such a step runs what the input is read as. -/
theorem step_of_read {s : State} {passed later : List Input} {inp : Input} {i : Instr} {rest : List Byte}
    (hn : NextInput s passed inp later) (hf : heldReady s = false ∨ inp.heldFirst = false)
    (hd : readInput inp = .word i rest) : step s = exec i (takeInput ⟨passed, inp, later⟩ rest s) := by
  simp [step, fetch_of_next hn hf, hd]

/-- Such a step runs what the input's bytes decode to. -/
theorem step_of_decode {s : State} {passed later : List Input} {inp : Input} {i : Instr} {rest : List Byte}
    (hn : NextInput s passed inp later) (hf : heldReady s = false ∨ inp.heldFirst = false)
    (hd : decode inp.port inp.bytes = .word i rest) :
    step s = exec i (takeInput ⟨passed, inp, later⟩ rest s) :=
  step_of_read hn hf (readInput_of_decode hd)

/-- A held request that goes is taken (R123). -/
theorem step_of_held {s : State} {e : Entry} {later : List Entry} (hh : s.held = e :: later)
    (hg : heldGoes s = true) : step s = .next (request e.cmd e.payload { s with held := later }) := by
  simp [step, fetch, hg, hh]

end Sys2Proof.Machine
end

