-- ==== Sys2Proof/Tests/Slice0.lean ====
section
/-! SUPPORT. Tests. Expected values are those of spec/95_test_vectors.md (its section is named at each test) or are read off the
encoding tables of spec/30_encoding.md. Then, for each statement of Certificates/Slice0/Obligations.lean with hypotheses, a
witness that meets them together. -/

namespace Sys2Proof.Tests

open Sys2Proof.Machine

/-! ### Helpers -/

/-- The bytes of ASCII characters (R13), by Lean's own character codes. -/
def ascii (cs : List Char) : List Byte := cs.map fun c => BitVec.ofNat 8 c.toNat

/-- A 24-bit word as its three bytes, low byte first (R79). -/
def le3 (w : Nat) : List Byte := [BitVec.ofNat 8 w, BitVec.ofNat 8 (w / 256), BitVec.ofNat 8 (w / 65536)]

/-- A 32-bit record word as its four bytes, low byte first (R79). -/
def le4 (w : Nat) : List Byte := le3 w ++ [BitVec.ofNat 8 (w / 16777216)]

/-- A start state as 95_test_vectors.md writes it: `open / fsm / queue / rxbuf / tmr_cnt`. -/
def st (o : Bool) (f : Fsm) (q : List Entry) (b : List Byte) (n : Nat) : State :=
  { State.reset with isOpen := o, fsm := f, queue := q, rxbuf := b, tmrCnt := n }

/-- One step on bytes standing on a port, with the transport's verdict for it. -/
def given (p : Port) (bs : List Byte) (v : Verdict) (s : State) : Result :=
  step { s with inbox := [⟨p, bs, ⟨3, 9600, 8, 0, 1, 0⟩, some v, false⟩] }

/-- A row's right half: the five elements, the bytes of the records, and TXLOG. -/
structure Shown where
  isOpen : Bool
  fsm : Fsm
  queue : List Entry
  rxbuf : List Byte
  tmrCnt : Nat
  records : List Byte
  txlog : List TxEntry
  deriving DecidableEq, Repr

/-- What a step leaves, as a row of 95_test_vectors.md shows it. -/
def shown : Result → Option Shown
  | .next t => some ⟨t.isOpen, t.fsm, t.queue, t.rxbuf, t.tmrCnt, t.out.flatMap Record.words, t.txlog⟩
  | .fault _ => none
  | .refused _ => none

/-- What a step leaves on `xport_ctl`. -/
def calls : Result → Option (List XportCall)
  | .next t => some t.xctl
  | .fault _ => none
  | .refused _ => none

/-- The name a step is refused by. -/
def refusal : Result → Option Refusal
  | .next _ => none
  | .fault _ => none
  | .refused r => some r

/-- The state after a step. -/
def after (s : State) : Result → State
  | .next t => t
  | .fault _ => s
  | .refused _ => s

/-- The step answers a next state. -/
def completes : Result → Bool
  | .next _ => true
  | .fault _ => false
  | .refused _ => false

/-- `Q1` of section 2.5. -/
def q1 : List Entry := [⟨.getTemp, 0#16⟩]

/-- `QS` of section 2.6. -/
def qs : List Entry := [⟨.setTemp, 4000#16⟩]

/-- `A(n)` of section 2.6. -/
def awaiting (n : Nat) : State := st true .await qs [] n

/-- The closed block, `0 / IDLE / [] / [] / 0`. -/
def closed : State := st false .idle [] [] 0

/-- The open idle block, `1 / IDLE / [] / [] / 0`. -/
def ready : State := st true .idle [] [] 0

/-- The response of the SET_TEMP scenario, `*0fa027^`. -/
def goodReply : List Byte := ascii ['*', '0', 'f', 'a', '0', '2', '7', '^']

/-- The same with its checksum off by one, `*0fa028^`. -/
def badReply : List Byte := ascii ['*', '0', 'f', 'a', '0', '2', '8', '^']

/-- The request frame of the SET_TEMP scenario, `*600fa08d\r`. -/
def setFrame : List Byte := ascii ['*', '6', '0', '0', 'f', 'a', '0', '8', 'd', '\r']

/-- A full queue of depth 2, open and idle (section 2.5, the last paragraph). -/
def full : State :=
  { st true .idle (q1 ++ [⟨.getOutput, 0#16⟩]) [] 0 with cfg := { Config.default with qDepth := some 2 } }

/-! ### Well-formedness: each check refuses an ill-formed term -/

theorem test_wf_empty_chunk : (Instr.rxChunk []).wellFormed = false := by decide
theorem test_wf_long_chunk : (Instr.rxChunk (List.replicate 256 0#8)).wellFormed = false := by
  rw [Instr.wellFormed, List.length_replicate]; decide
theorem test_wf_short_raw_frame : (Instr.nRawFrame (List.replicate 7 0#8)).wellFormed = false := by decide
theorem test_wf_non_hex_response : (Instr.wireResponse 0x30#8 0x30#8 0x30#8 0x30#8 0x30#8 0x5E#8).wellFormed = false := by
  decide
theorem test_wf_code_table_repeated :
    ¬Config.WellFormed { Config.default with cmdCode := { CmdCodes.default with getTemp := 3 } } := by decide
theorem test_wf_timer_too_narrow : ¬Config.WellFormed { Config.default with tw := 9 } := by decide
theorem test_wf_no_timeout : ¬Config.WellFormed { Config.default with tTimeout := 0 } := by decide
theorem test_wf_no_depth : ¬Config.WellFormed { Config.default with qDepth := some 0 } := by decide

/-! ### Decoding: the words of 95_test_vectors.md, and R80 and R72 for the output rows -/

theorem test_decode_open : decode .hostOp [0x01#8, 0x00#8, 0x00#8] = .word .openLink [] := by decide
theorem test_decode_close : decode .hostOp [0x02#8, 0x00#8, 0x00#8] = .word .closeLink [] := by decide
theorem test_decode_is_open : decode .hostOp [0x03#8, 0x00#8, 0x00#8] = .word .isOpen [] := by decide
theorem test_decode_set_temperature : decode .hostOp [0x10#8, 0xA0#8, 0x0F#8] = .word (.setTemperature 4000#16) [] := by
  decide
theorem test_decode_read_temperature : decode .hostOp [0x11#8, 0x00#8, 0x00#8] = .word .readTemperature [] := by decide
theorem test_decode_read_set_temperature : decode .hostOp [0x12#8, 0x00#8, 0x00#8] = .word .readSetTemperature [] := by
  decide
theorem test_decode_read_output : decode .hostOp [0x13#8, 0x00#8, 0x00#8] = .word .readOutput [] := by decide
theorem test_decode_read_sensor_status : decode .hostOp [0x14#8, 0x00#8, 0x00#8] = .word .readSensorStatus [] := by
  decide
theorem test_decode_set_power_status : decode .hostOp [0x15#8, 0x01#8, 0x00#8] = .word (.setPowerStatus true) [] := by
  decide
theorem test_decode_read_power_status : decode .hostOp [0x16#8, 0x00#8, 0x00#8] = .word .readPowerStatus [] := by decide
theorem test_decode_dispatch : decode .hostOp [0x20#8, 0x00#8, 0x00#8] = .word .dispatch [] := by decide
theorem test_decode_rx_chunk :
    decode .rxEv [0x40#8, 0x04#8, 0x00#8, 0x2A#8, 0x30#8, 0x66#8, 0x61#8, 0x42#8, 0x00#8, 0x00#8]
      = .word (.rxChunk [0x2A#8, 0x30#8, 0x66#8, 0x61#8]) [0x42#8, 0x00#8, 0x00#8] := by decide
theorem test_decode_line_error : decode .rxEv [0x41#8, 0x92#8, 0x00#8] = .word (.lineError 18#7 true) [] := by decide
theorem test_decode_time_tick : decode .rxEv [0x42#8, 0x00#8, 0x00#8] = .word .timeTick [] := by decide
theorem test_decode_reset : decode .rst [0x01#8] = .word .reset [] := by decide
theorem test_decode_n_value : decode .hostOut [0x80#8, 0x3C#8, 0xA0#8, 0x0F#8] = .word (.nValue 60#8 4000#16) [] := by
  decide
theorem test_decode_n_error : decode .hostOut [0x81#8, 0x3C#8, 0x04#8, 0x7F#8] = .word (.nError 60#8 4#8 127#8) [] := by
  decide
theorem test_decode_n_raw_frame :
    decode .hostOut [0x82#8, 0#8, 0#8, 0#8, 0x2A#8, 0x30#8, 0x66#8, 0x61#8, 0x30#8, 0x32#8, 0x37#8, 0x5E#8]
      = .word (.nRawFrame [0x2A#8, 0x30#8, 0x66#8, 0x61#8, 0x30#8, 0x32#8, 0x37#8, 0x5E#8]) [] := by decide
theorem test_decode_n_fatal : decode .hostOut [0x83#8, 0x00#8, 0x00#8, 0x7F#8] = .word (.nFatal 127#8) [] := by decide
theorem test_decode_r_is_open : decode .hostOut [0x84#8, 0x01#8, 0x00#8, 0x00#8] = .word (.rIsOpen true) [] := by decide
theorem test_decode_wire_none :
    decode .tx [0x2A#8, 0x30#8, 0x30#8, 0x30#8, 0x30#8, 0x30#8, 0x30#8, 0x32#8, 0x30#8, 0x0D#8]
      = .word (.wireNone 0#16) [] := by decide
theorem test_decode_wire_get_temp :
    decode .tx [0x2A#8, 0x30#8, 0x31#8, 0x30#8, 0x30#8, 0x30#8, 0x30#8, 0x32#8, 0x31#8, 0x0D#8]
      = .word (.wireGetTemp 0#16) [] := by decide
theorem test_decode_wire_get_output :
    decode .tx [0x2A#8, 0x30#8, 0x33#8, 0x30#8, 0x30#8, 0x30#8, 0x30#8, 0x32#8, 0x33#8, 0x0D#8]
      = .word (.wireGetOutput 0#16) [] := by decide
theorem test_decode_wire_get_sensor_status :
    decode .tx [0x2A#8, 0x30#8, 0x34#8, 0x30#8, 0x30#8, 0x30#8, 0x30#8, 0x32#8, 0x34#8, 0x0D#8]
      = .word (.wireGetSensorStatus 0#16) [] := by decide
theorem test_decode_wire_get_set_temp :
    decode .tx [0x2A#8, 0x33#8, 0x30#8, 0x30#8, 0x30#8, 0x30#8, 0x30#8, 0x32#8, 0x33#8, 0x0D#8]
      = .word (.wireGetSetTemp 0#16) [] := by decide
theorem test_decode_wire_get_power_status :
    decode .tx [0x2A#8, 0x33#8, 0x35#8, 0x30#8, 0x30#8, 0x30#8, 0x30#8, 0x32#8, 0x38#8, 0x0D#8]
      = .word (.wireGetPowerStatus 0#16) [] := by decide
theorem test_decode_wire_set_temp :
    decode .tx [0x2A#8, 0x36#8, 0x30#8, 0x61#8, 0x62#8, 0x63#8, 0x64#8, 0x66#8, 0x30#8, 0x0D#8]
      = .word (.wireSetTemp 0xABCD#16) [] := by decide
theorem test_decode_wire_set_power_status :
    decode .tx [0x2A#8, 0x36#8, 0x35#8, 0x30#8, 0x30#8, 0x30#8, 0x31#8, 0x32#8, 0x63#8, 0x0D#8]
      = .word (.wireSetPowerStatus 1#16) [] := by decide
theorem test_decode_wire_response :
    decode .line [0x2A#8, 0x30#8, 0x46#8, 0x41#8, 0x30#8, 0x65#8, 0x37#8, 0x5E#8]
      = .word (.wireResponse 0x30#8 0x46#8 0x41#8 0x30#8 0x65#8 0x37#8) [] := by decide

/-- Section 2.5: the reserved host words. -/
theorem test_decode_reserved_host_words :
    [0x000000, 0x000004, 0x000017, 0x000021, 0x000111, 0x000215, 0x000101].map (fun w => decode .hostOp (le3 w))
      = [.refused (.reservedOpc 0#8), .refused (.reservedOpc 4#8), .refused (.reservedOpc 0x17#8),
         .refused (.reservedOpc 0x21#8), .refused (.operandNotZero 0x11#8), .refused (.operandNotZero 0x15#8),
         .refused (.operandNotZero 0x01#8)] := by decide

/-- Section 2.6: the reserved event words. -/
theorem test_decode_reserved_event_words :
    [0x000040, 0x010140, 0x010041, 0x000142, 0x000043].map (fun w => decode .rxEv (le3 w))
      = [.refused .emptyChunk, .refused (.argNotZero 0x40#8), .refused (.argNotZero 0x41#8),
         .refused (.argNotZero 0x42#8), .refused (.reservedEvc 0x43#8)] := by decide

/-- An upper-case payload digit, or a wrong checksum, makes no request frame (R70). -/
theorem test_decode_request_case_and_checksum :
    decode .tx (ascii ['*', '6', '0', '0', 'F', 'A', '0', '4', 'd', '\r']) = .refused .notARequestFrame ∧
    decode .tx (ascii ['*', '6', '0', '0', 'f', 'a', '0', '8', 'e', '\r']) = .refused .notARequestFrame := by decide

/-- Words as the opcode table numbers them. -/
theorem test_table_words :
    decodeTableWord 24 0x000001 = some .openLink ∧ decodeTableWord 24 0x0FA010 = some (.setTemperature 4000#16) ∧
    decodeTableWord 24 0x000340 = some (.rxChunk [0#8, 0#8, 0#8]) ∧
    decodeTableWord 24 0x009241 = some (.lineError 18#7 true) ∧ decodeTableWord 8 1 = some .reset ∧
    decodeTableWord 32 0x0FA03C80 = some (.nValue 60#8 4000#16) ∧
    decodeTableWord 32 0x82 = some (.nRawFrame (List.replicate 8 0#8)) ∧
    decodeTableWord 80 0x2A36303066613038640D = some (.wireSetTemp 4000#16) ∧
    decodeTableWord 64 0x2A3066613032375E
      = some (.wireResponse 0x30#8 0x66#8 0x61#8 0x30#8 0x32#8 0x37#8) := by decide

/-- A table word is what the next step runs. -/
theorem test_fetch_word :
    shown (step (State.reset.withFetchWord 24 0x000013))
      = some ⟨false, .idle, [], [], 0, le4 0x00010381, []⟩ := by decide

/-! ### The codec (section 2) -/

/-- Section 2.1. -/
theorem test_digit_helpers :
    [0#4, 9#4, 10#4, 15#4].map hexlc = ascii ['0', '9', 'a', 'f'] ∧
    [0x30#8, 0x39#8, 0x41#8, 0x46#8, 0x61#8, 0x66#8].all isHex = true ∧
    [0x2F#8, 0x3A#8, 0x40#8, 0x47#8, 0x60#8, 0x67#8, 0x5E#8].any isHex = false ∧
    (ascii ['7', 'b', 'B', 'F']).map hexval = [7, 11, 11, 15] ∧
    [0, 4, 35, 99].map dec2 = [ascii ['0', '0'], ascii ['0', '4'], ascii ['3', '5'], ascii ['9', '9']] ∧
    [0#16, 10#16, 0x0FA0#16, 0xFFFF#16].map hex4
      = [ascii ['0', '0', '0', '0'], ascii ['0', '0', '0', 'a'], ascii ['0', 'f', 'a', '0'], ascii ['f', 'f', 'f', 'f']] ∧
    [0x00#8, 0x0A#8, 0x8D#8].map hex2 = [ascii ['0', '0'], ascii ['0', 'a'], ascii ['8', 'd']] := by decide

/-- Section 2.1. -/
theorem test_sum8 :
    sum8 (ascii ['0', '0', '0', '0']) = 0xC0#8 ∧ sum8 (ascii ['f', 'f', 'f', 'f']) = 0x98#8 ∧
    sum8 (ascii ['F', 'F', 'F', 'F']) = 0x18#8 ∧ sum8 (ascii ['9', '9', 'f', 'f', 'f', 'f']) = 0x0A#8 := by decide

/-- Section 2.2: zero payload, every transmitted command. -/
theorem test_encode_zero_payload :
    [Command.getTemp, .getOutput, .getSensorStatus, .getSetTemp, .getPowerStatus, .setTemp, .setPowerStatus].map
        (fun c => encodeFrame CmdCodes.default c 0#16)
      = [ascii ['*', '0', '1', '0', '0', '0', '0', '2', '1', '\r'], ascii ['*', '0', '3', '0', '0', '0', '0', '2', '3', '\r'],
         ascii ['*', '0', '4', '0', '0', '0', '0', '2', '4', '\r'], ascii ['*', '3', '0', '0', '0', '0', '0', '2', '3', '\r'],
         ascii ['*', '3', '5', '0', '0', '0', '0', '2', '8', '\r'], ascii ['*', '6', '0', '0', '0', '0', '0', '2', '6', '\r'],
         ascii ['*', '6', '5', '0', '0', '0', '0', '2', 'b', '\r']] := by decide

/-- Section 2.2: payload corner cases of SET_TEMP. -/
theorem test_encode_payloads :
    [1#16, 10#16, 32768#16, 39321#16, 43981#16, 65535#16].map (fun p => encodeFrame CmdCodes.default .setTemp p)
      = [ascii ['*', '6', '0', '0', '0', '0', '1', '2', '7', '\r'], ascii ['*', '6', '0', '0', '0', '0', 'a', '5', '7', '\r'],
         ascii ['*', '6', '0', '8', '0', '0', '0', '2', 'e', '\r'], ascii ['*', '6', '0', '9', '9', '9', '9', '4', 'a', '\r'],
         ascii ['*', '6', '0', 'a', 'b', 'c', 'd', 'f', '0', '\r'], ascii ['*', '6', '0', 'f', 'f', 'f', 'f', 'f', 'e', '\r']] := by
  decide

/-- Section 2.3: the prefixes, and the well-shaped buffers. -/
theorem test_try_decode_incomplete_and_frame :
    tryDecode [] = .incomplete ∧ tryDecode (ascii ['*']) = .incomplete ∧
    tryDecode (ascii ['*', '0', 'f', 'a', '0', '2']) = .incomplete ∧
    tryDecode (ascii ['*', '0', 'f', 'a', '0', '2', '7']) = .incomplete ∧
    tryDecode goodReply = .frame (ascii ['0', 'f', 'a', '0']) (ascii ['2', '7']) ∧
    tryDecode (ascii ['*', '0', 'F', 'A', '0', 'e', '7', '^']) = .frame (ascii ['0', 'F', 'A', '0']) (ascii ['e', '7']) := by
  decide

/-- Section 2.3: the buffers that are no frame and no prefix of one. -/
theorem test_try_decode_invalid :
    [ascii ['^'], ascii ['*', '*'], ascii ['*', '0', 'f', 'g'], ascii ['*', '0', 'f', 'a', '0', '2', '7', '\r'],
     ascii ['*', '0', 'f', 'a', '0', '2', '7', '*'], ascii ['*', '0', 'f', 'a', '0', '2', '7', '7'], goodReply ++ ascii ['^'],
     ascii ['x'] ++ goodReply, ascii ['*', '0', 'f', 'a', '0', ' ', '2', '7', '^']].map tryDecode
      = List.replicate 9 .invalidShape := by decide

/-- Section 2.4: the sums that match. -/
theorem test_verify_checksum_ok :
    verifyChecksum (ascii ['0', 'f', 'a', '0']) (ascii ['2', '7']) = .ok 4000#16 ∧
    verifyChecksum (ascii ['0', '0', '0', '0']) (ascii ['c', '0']) = .ok 0#16 ∧
    verifyChecksum (ascii ['f', 'f', 'f', 'f']) (ascii ['9', '8']) = .ok 65535#16 ∧
    verifyChecksum (ascii ['F', 'F', 'F', 'F']) (ascii ['1', '8']) = .ok 65535#16 ∧
    verifyChecksum (ascii ['a', 'b', 'c', 'd']) (ascii ['8', 'A']) = .ok 43981#16 ∧
    verifyChecksum (ascii ['A', 'B', 'C', 'D']) (ascii ['0', 'a']) = .ok 43981#16 := by decide

/-- Section 2.4: the sums that do not. -/
theorem test_verify_checksum_mismatch :
    verifyChecksum (ascii ['A', 'B', 'C', 'D']) (ascii ['8', 'a']) = .mismatch ∧
    verifyChecksum (ascii ['0', 'f', 'A', '0']) (ascii ['2', '7']) = .mismatch ∧
    verifyChecksum (ascii ['0', 'f', 'a', '0']) (ascii ['2', '8']) = .mismatch ∧
    verifyChecksum (ascii ['0', '0', '0', '0']) (ascii ['0', '0']) = .mismatch := by decide

/-! ### Host operations (section 2.5): one step on the word given there -/

theorem test_open_ok :
    shown (given .hostOp (le3 0x000001) .ok closed) = some ⟨true, .idle, [], [], 0, [], []⟩ ∧
    calls (given .hostOp (le3 0x000001) .ok closed) = some [.xopen ⟨3, 9600, 8, 0, 1, 0⟩ .ok] := by decide
theorem test_open_fail_and_while_open :
    shown (given .hostOp (le3 0x000001) .fail closed) = some ⟨false, .idle, [], [], 0, [], []⟩ ∧
    shown (given .hostOp (le3 0x000001) .ok (st true .idle q1 [] 0)) = some ⟨true, .idle, q1, [], 0, [], []⟩ ∧
    calls (given .hostOp (le3 0x000001) .ok (st true .idle q1 [] 0)) = some [] := by decide
theorem test_close_open_link :
    shown (given .hostOp (le3 0x000002) .ok (st true .await (q1 ++ [⟨.getOutput, 0#16⟩]) (ascii ['*', '0', 'f']) 7))
      = some ⟨false, .idle, [], [], 0, [], []⟩ ∧
    calls (given .hostOp (le3 0x000002) .ok (awaiting 7)) = some [.xclose] := by decide
theorem test_close_closed_link :
    shown (given .hostOp (le3 0x000002) .ok closed) = some ⟨false, .idle, [], [], 0, [], []⟩ ∧
    calls (given .hostOp (le3 0x000002) .ok closed) = some [] := by decide
theorem test_is_open_closed :
    shown (given .hostOp (le3 0x000003) .ok closed) = some ⟨false, .idle, [], [], 0, le4 0x00000084, []⟩ := by decide
theorem test_is_open_open :
    shown (given .hostOp (le3 0x000003) .ok ready) = some ⟨true, .idle, [], [], 0, le4 0x00000184, []⟩ := by decide
theorem test_set_temperature_closed :
    shown (given .hostOp (le3 0x0FA010) .ok closed) = some ⟨false, .idle, [], [], 0, le4 0x00013C81, []⟩ := by decide
theorem test_set_temperature_open :
    shown (given .hostOp (le3 0x0FA010) .ok ready) = some ⟨true, .idle, qs, [], 0, [], []⟩ := by decide
theorem test_read_temperature_twice :
    shown (given .hostOp (le3 0x000011) .ok (st true .idle q1 [] 0))
      = some ⟨true, .idle, q1 ++ [⟨.getTemp, 0#16⟩], [], 0, [], []⟩ := by decide
theorem test_read_set_temperature :
    shown (given .hostOp (le3 0x000012) .ok ready) = some ⟨true, .idle, [⟨.getSetTemp, 0#16⟩], [], 0, [], []⟩ := by decide
theorem test_read_output_closed :
    shown (given .hostOp (le3 0x000013) .ok closed) = some ⟨false, .idle, [], [], 0, le4 0x00010381, []⟩ := by decide
theorem test_read_sensor_status_in_await :
    shown (given .hostOp (le3 0x000014) .ok (st true .await q1 [] 5))
      = some ⟨true, .await, q1 ++ [⟨.getSensorStatus, 0#16⟩], [], 5, [], []⟩ := by decide
theorem test_set_power_status_closed :
    shown (given .hostOp (le3 0x000115) .ok closed) = some ⟨false, .idle, [], [], 0, le4 0x00014181, []⟩ := by decide
theorem test_set_power_status_false_and_true :
    shown (given .hostOp (le3 0x000015) .ok ready) = some ⟨true, .idle, [⟨.setPowerStatus, 0#16⟩], [], 0, [], []⟩ ∧
    shown (given .hostOp (le3 0x000115) .ok ready) = some ⟨true, .idle, [⟨.setPowerStatus, 1#16⟩], [], 0, [], []⟩ := by
  decide
theorem test_read_power_status :
    shown (given .hostOp (le3 0x000016) .ok ready) = some ⟨true, .idle, [⟨.getPowerStatus, 0#16⟩], [], 0, [], []⟩ := by
  decide
theorem test_dispatch_verdicts :
    shown (given .hostOp (le3 0x000020) .ok (st true .idle q1 [] 0))
      = some ⟨true, .await, q1, [], 1000, [], [⟨ascii ['*', '0', '1', '0', '0', '0', '0', '2', '1', '\r'], .ok⟩]⟩ ∧
    shown (given .hostOp (le3 0x000020) .fail (st true .idle q1 [] 0))
      = some ⟨true, .idle, q1, [], 0, [], [⟨ascii ['*', '0', '1', '0', '0', '0', '0', '2', '1', '\r'], .fail⟩]⟩ := by decide
theorem test_dispatch_guard :
    shown (given .hostOp (le3 0x000020) .ok (st true .await q1 [] 1000)) = some ⟨true, .await, q1, [], 1000, [], []⟩ ∧
    shown (given .hostOp (le3 0x000020) .ok ready) = some ⟨true, .idle, [], [], 0, [], []⟩ ∧
    shown (given .hostOp (le3 0x000020) .ok closed) = some ⟨false, .idle, [], [], 0, [], []⟩ := by decide

/-- Section 2.5, the last paragraph: with `Q_DEPTH` = 2 the request is held. -/
theorem test_full_queue_holds :
    (after full (given .hostOp (le3 0x000011) .ok full)).queue = full.queue ∧
    (after full (given .hostOp (le3 0x000011) .ok full)).held = [⟨.getTemp, 0#16⟩] := by decide

/-- The full block with a request held and these inputs presented. -/
def holding (q : List Entry) (ins : List Input) : State := { full with queue := q, held := q1, inbox := ins }

/-- An input with a verdict ok, and whether a held request goes before it. -/
def input (p : Port) (bs : List Byte) (heldFirst : Bool) : Input := ⟨p, bs, ⟨3, 9600, 8, 0, 1, 0⟩, some .ok, heldFirst⟩

/-- The held request is taken by the step after a LINE_ERROR has made room. -/
theorem test_held_request_taken :
    (after full (step (holding [⟨.getOutput, 0#16⟩] []))).queue = [⟨.getOutput, 0#16⟩, ⟨.getTemp, 0#16⟩] := by decide

/-- R11: the held host's IS_OPEN waits, and a LINE_ERROR behind it goes on; R123: its CLOSE does not wait. -/
theorem test_held_host_waits :
    (after full (step (holding full.queue [input .hostOp (le3 0x000003) false, input .rxEv (le3 0x000541) false]))).out
      = [.nError .transportFault 1#8 5#8] ∧
    (after full (step (holding full.queue [input .hostOp (le3 0x000003) false, input .rxEv (le3 0x000541) false]))).inbox
      = [input .hostOp (le3 0x000003) false] ∧
    (after full (step (holding full.queue [input .hostOp (le3 0x000002) false]))).isOpen = false ∧
    (after full (step (holding full.queue [input .hostOp (le3 0x000003) false, input .hostOp (le3 0x000002) false]))).isOpen
      = true := by decide

/-- R181: with room, the held request or another agent's LINE_ERROR may come first. -/
theorem test_held_request_order :
    (after full (step (holding q1 [input .rxEv (le3 0x000541) true]))).queue = q1 ++ q1 ∧
    (after full (step (holding q1 [input .rxEv (le3 0x000541) false]))).queue = [] := by decide

/-- The held host's own CLOSE, once there is room: both orders (log 20). -/
theorem test_held_request_and_close :
    (after full (step (holding q1 [input .hostOp (le3 0x000002) true]))).queue = q1 ++ q1 ∧
    (after full (step (holding q1 [input .hostOp (le3 0x000002) false]))).isOpen = false ∧
    (after full (step { holding [] [] with isOpen := false })).out = [.nError .notOpen 1#8 0#8] := by decide

/-- A word placed for the next step is what it runs, a request being held or not. -/
theorem test_fetch_word_while_held :
    (after full (step ((holding q1 []).withFetchWord 24 0x000003))).out = [.rIsOpen true] ∧
    (after full (step ((holding q1 []).withFetchWord 24 0x000541))).held = q1 := by decide

/-! ### Transport and time-base events (section 2.6), and reset (section 2.7) -/

theorem test_rx_chunk_resolves :
    shown (given .rxEv (le3 0x000840 ++ goodReply) .ok (awaiting 1000))
      = some ⟨true, .idle, [], [], 0, le4 0x00000082 ++ goodReply ++ le4 0x0FA03C80, []⟩ ∧
    shown (given .rxEv (le3 0x000840 ++ badReply) .ok (awaiting 1000))
      = some ⟨true, .idle, [], [], 0, le4 0x00000082 ++ badReply ++ le4 0x00023C81, []⟩ ∧
    shown (given .rxEv (le3 0x000340 ++ ascii ['2', '7', '^']) .ok (st true .await qs (ascii ['*', '0', 'f', 'a', '0']) 1000))
      = some ⟨true, .idle, [], [], 0, le4 0x00000082 ++ goodReply ++ le4 0x0FA03C80, []⟩ := by decide
theorem test_rx_chunk_kept_or_discarded :
    shown (given .rxEv (le3 0x000540 ++ ascii ['*', '0', 'f', 'a', '0']) .ok (awaiting 1000))
      = some ⟨true, .await, qs, ascii ['*', '0', 'f', 'a', '0'], 1000, [], []⟩ ∧
    shown (given .rxEv (le3 0x000940 ++ goodReply ++ ascii ['x']) .ok (awaiting 1000))
      = some ⟨true, .await, qs, goodReply ++ ascii ['x'], 1000, [], []⟩ ∧
    shown (given .rxEv (le3 0x000840 ++ goodReply) .ok ready) = some ⟨true, .idle, [], [], 0, [], []⟩ := by decide
theorem test_time_tick_counts :
    shown (given .rxEv (le3 0x000042) .ok (awaiting 1000)) = some ⟨true, .await, qs, [], 999, [], []⟩ ∧
    shown (given .rxEv (le3 0x000042) .ok (st true .idle qs [] 0)) = some ⟨true, .idle, qs, [], 0, [], []⟩ := by decide
theorem test_time_tick_expires :
    shown (given .rxEv (le3 0x000042) .ok (st true .await qs (ascii ['*', '0', 'f']) 1))
      = some ⟨true, .idle, [], [], 0, le4 0x00033C81, []⟩ := by decide
theorem test_line_error_idle :
    shown (given .rxEv (le3 0x000541) .ok ready) = some ⟨true, .idle, [], [], 0, le4 0x05040081, []⟩ ∧
    shown (given .rxEv (le3 0x000541) .ok (st true .idle qs [] 0)) = some ⟨true, .idle, [], [], 0, le4 0x05043C81, []⟩ := by
  decide
theorem test_line_error_fatal :
    shown (given .rxEv (le3 0x00FF41) .ok (awaiting 1000))
      = some ⟨true, .idle, [], [], 0, le4 0x7F043C81 ++ le4 0x7F000083, []⟩ ∧
    shown (given .rxEv (le3 0x008041) .ok closed)
      = some ⟨false, .idle, [], [], 0, le4 0x00040081 ++ le4 0x00000083, []⟩ := by decide
theorem test_reset_pin :
    shown (given .rst [0x01#8] .ok (st true .await qs (ascii ['*', '0', 'f']) 12)) = some ⟨false, .idle, [], [], 0, [], []⟩ ∧
    calls (given .rst [0x01#8] .ok (awaiting 12)) = some [] := by decide
theorem test_wire_response :
    shown (given .line goodReply .ok (awaiting 1000))
      = some ⟨true, .idle, [], [], 0, le4 0x00000082 ++ goodReply ++ le4 0x0FA03C80, []⟩ ∧
    shown (given .line goodReply .ok ready) = some ⟨true, .idle, [], [], 0, [], []⟩ := by decide
/-- R82, section 2.6: bytes on the line that are no frame stay in the buffer, complete one there, or are discarded in IDLE. -/
theorem test_malformed_wire_input :
    shown (given .line (ascii ['*', '0', 'f', 'a', '0', '2', '7', '\r']) .ok (awaiting 1000))
      = some ⟨true, .await, qs, ascii ['*', '0', 'f', 'a', '0', '2', '7', '\r'], 1000, [], []⟩ ∧
    shown (given .line (ascii ['2', '7', '^']) .ok (st true .await qs (ascii ['*', '0', 'f', 'a', '0']) 1000))
      = some ⟨true, .idle, [], [], 0, le4 0x00000082 ++ goodReply ++ le4 0x0FA03C80, []⟩ ∧
    shown (given .line (ascii ['^']) .ok ready) = some ⟨true, .idle, [], [], 0, [], []⟩ := by decide
theorem test_outputs_are_no_inputs :
    refusal (given .hostOut (le4 0x0FA03C80) .ok ready) = some .outputRecord ∧
    refusal (given .tx setFrame .ok ready) = some .requestFrame ∧
    refusal (given .hostOp (le3 0x000004) .ok ready) = some (.reservedWord (.reservedOpc 4#8)) := by decide

/-! ### Witnesses: the hypotheses of each statement, met together -/

/-- A link that answers `ok`, and one that answers `fail`. -/
def answering (v : Verdict) (s : State) : State := { s with draw := some v }

/-- An AWAIT state that has the invariant (no reset state). -/
theorem witness_invariant_await : BlockInv (awaiting 1000) where
  config := by decide
  closed := by decide
  awaiting := by decide
  idle := by decide
  noFrame := by decide
  commands := by decide
  depth := by intro d h; cases h
  heldOnlyIfFinite := by decide
  heldAtMostOne := by decide

/-- An IDLE state with a queue, that has the invariant. -/
theorem witness_invariant_idle : BlockInv (answering .ok (st true .idle q1 [] 0)) where
  config := by decide
  closed := by decide
  awaiting := by decide
  idle := by decide
  noFrame := by decide
  commands := by decide
  depth := by intro d h; cases h
  heldOnlyIfFinite := by decide
  heldAtMostOne := by decide

theorem witness_StepKeepsInvariant :
    completes (step (awaiting 1000)) = true ∧
    completes (step { awaiting 1 with inbox := [⟨.rxEv, le3 0x000042, ⟨0, 0, 0, 0, 0, 0⟩, none, false⟩] }) = true := by decide
theorem witness_AtMostOneRequestInFlight :
    completes (exec .dispatch (answering .ok (st true .idle q1 [] 0))) = true ∧
    (after closed (exec (.rxChunk goodReply) (awaiting 1000))).fsm = .idle := by decide
theorem witness_DecodeOfEncodeIsIdentity :
    (Instr.rxChunk [0#8]).wellFormed = true ∧ (Instr.nRawFrame goodReply).wellFormed = true ∧
    (Instr.wireResponse 0x30#8 0x39#8 0x41#8 0x46#8 0x61#8 0x66#8).wellFormed = true := by decide
theorem witness_DecodeOfEncodeIsIdentity_long_chunk : (Instr.rxChunk (List.replicate 255 0#8)).wellFormed = true := by
  rw [Instr.wellFormed, List.length_replicate]; decide
theorem witness_DecodedBytesAreTheEncoding :
    decode .rxEv [0x40#8, 0x01#8, 0x00#8, 0x2A#8, 0x42#8] = .word (.rxChunk [0x2A#8]) [0x42#8] ∧
    decode .tx (setFrame ++ [0#8]) = .word (.wireSetTemp 4000#16) [0#8] := by decide
theorem witness_ReservedWordsRefusedByName :
    (∀ opc ∈ [0x00#8, 0x04#8, 0x0F#8, 0x17#8, 0x21#8, 0xFF#8],
      opc ∉ [0x01#8, 0x02#8, 0x03#8, 0x10#8, 0x11#8, 0x12#8, 0x13#8, 0x14#8, 0x15#8, 0x16#8, 0x20#8]) ∧
    0x20#8 ∈ [0x01#8, 0x02#8, 0x03#8, 0x11#8, 0x12#8, 0x13#8, 0x14#8, 0x16#8, 0x20#8] ∧
    ¬((1#8 : Byte) = 0#8 ∧ (0#8 : Byte) = 0#8) ∧ ¬((2#8 : Byte).toNat ≤ 1 ∧ (0#8 : Byte) = 0#8) ∧
    ¬((1#8 : Byte).toNat ≤ 1 ∧ (1#8 : Byte) = 0#8) ∧
    0x3F#8 ∉ [0x40#8, 0x41#8, 0x42#8] ∧ 0x43#8 ∉ [0x40#8, 0x41#8, 0x42#8] ∧ (1#8 : Byte) ≠ 0#8 ∧
    heldReady ready = false ∧ decode .hostOp (le3 0x000004) = .refused (.reservedOpc 4#8) := by decide
/-- The next input: of an idle inbox, of a held host that closes, and of another agent behind a waiting host word. -/
theorem witness_NextInput :
    NextInput { ready with inbox := [input .hostOp (le3 0x000003) false] } [] (input .hostOp (le3 0x000003) false) [] ∧
    NextInput (holding full.queue [input .hostOp (le3 0x000002) false]) [] (input .hostOp (le3 0x000002) false) [] ∧
    NextInput (holding full.queue [input .hostOp (le3 0x000003) false, input .rxEv (le3 0x000042) false])
      [input .hostOp (le3 0x000003) false] (input .rxEv (le3 0x000042) false) [] :=
  ⟨⟨rfl, .inl (by decide)⟩, ⟨rfl, .inr (.inl (by decide))⟩, ⟨rfl, .inr (.inr (by decide))⟩⟩
theorem witness_StepRunsDecodedInstruction :
    heldReady (holding full.queue []) = false ∧
    decode .rxEv (le3 0x000042 ++ le3 0x000042) = .word .timeTick (le3 0x000042) ∧ Instr.timeTick.wellFormed = true ∧
    heldReady (holding q1 []) = true ∧ (input .rxEv (le3 0x000042) false).heldFirst = false := by decide
theorem witness_MalformedWireInputIsReceived :
    NextInput { awaiting 1 with inbox := [input .line (ascii ['*', '*']) false] } [] (input .line (ascii ['*', '*']) false) [] ∧
    decode .line (ascii ['*', '*']) = .refused .truncated ∧ ascii ['*', '*'] ≠ [] ∧
    decode .line (ascii ['*', '0', 'f', 'a', '0', '2', '7', '\r']) = .refused .notAResponseFrame ∧
    (awaiting 1).fsm = .await ∧ ready.fsm = .idle ∧ shapeOK ((awaiting 1).rxbuf ++ (ascii ['*', '*']).take 255) = false :=
  ⟨⟨rfl, .inl (by decide)⟩, by decide⟩
theorem witness_IdleBlockKeepsState :
    State.reset.inbox = [] ∧ heldReady State.reset = false ∧
    (holding full.queue [input .hostOp (le3 0x000003) false]).held ≠ [] ∧
    heldReady (holding full.queue [input .hostOp (le3 0x000003) false]) = false ∧
    otherAgent (input .hostOp (le3 0x000003) false) = false ∧
    spells (input .hostOp (le3 0x000003) false) .closeLink = false := by decide
theorem witness_HeldRequestTakenWhenRoom :
    (holding q1 []).held = ⟨.getTemp, 0#16⟩ :: [] ∧ (holding q1 []).isOpen = true ∧ queueFull (holding q1 []) = false ∧
    queueFull full = true ∧ closed.isOpen = false := by decide
/-- With an empty inbox no input is next, so none goes before the held request. -/
theorem witness_no_next_input : ∀ passed inp rest, NextInput (holding q1 []) passed inp rest → inp.heldFirst = true := by
  rintro passed inp rest ⟨h, -⟩
  cases passed <;> cases h
theorem witness_HeldHostIssuesOnlyClose :
    fetch (holding full.queue [input .hostOp (le3 0x000002) false])
      = .instr .closeLink { holding full.queue [] with portCfg := ⟨3, 9600, 8, 0, 1, 0⟩, draw := some .ok } := by decide
theorem witness_EitherAgentMayGoFirst :
    heldReady (holding q1 []) = true ∧ otherAgent (input .rxEv (le3 0x000541) true) = true ∧
    otherAgent (input .hostOp (le3 0x000020) true) = true ∧
    spells (input .hostOp (le3 0x000002) true) .closeLink = true ∧
    decode .hostOp (le3 0x000002) = .word .closeLink [] ∧
    decode .rxEv (le3 0x000541) = .word (.lineError 5#7 false) [] := by decide
theorem witness_ResetPinClearsTheBlock : completes (exec .reset (awaiting 1)) = true := by decide
theorem witness_OpenFollowsTheVerdict :
    closed.isOpen = false ∧ answer (answering .ok closed) = .ok ∧ answer (answering .fail closed) = .fail ∧
    ready.isOpen = true ∧ completes (exec .openLink (answering .fail closed)) = true := by decide
theorem witness_CloseDiscardsEverything :
    completes (exec .closeLink ready) = true ∧ completes (exec .closeLink closed) = true := by decide
theorem witness_RequestsEnqueueOrReportNotOpen :
    requestRow .readTemperature = some (0x11#8, 0#16, .getTemp, 0#16) ∧
    requestRow (.setPowerStatus true) = some (0x15#8, 1#16, .setPowerStatus, 1#16) ∧
    ready.cfg.qDepth ≠ some ready.queue.length ∧
    { full with queue := q1 }.cfg.qDepth ≠ some { full with queue := q1 }.queue.length ∧
    full.cfg.qDepth = some full.queue.length ∧ closed.isOpen = false := by decide
theorem witness_FullQueueHoldsTheRequest :
    requestRow (.setTemperature 65535#16) = some (0x10#8, 65535#16, .setTemp, 65535#16) ∧ full.isOpen = true ∧
    full.cfg.qDepth = some full.queue.length := by decide
theorem witness_DispatchSendsTheHead :
    awaiting 1 = st true .await (⟨.setTemp, 4000#16⟩ :: []) [] 1 ∧
    answer (answering .ok (st true .idle qs [] 0)) = .ok ∧ answer (answering .fail (st true .idle qs [] 0)) = .fail ∧
    closed.isOpen = false ∧ (awaiting 1).fsm = .await ∧ ready.queue = [] := by decide
theorem witness_FailedWriteIsResent :
    answer (answering .fail (st true .idle qs [] 0)) = .fail ∧
    completes (exec .dispatch (answering .fail (st true .idle qs [] 0))) = true := by decide
theorem witness_ChunkIsKeptOrResolvesTheHead :
    ready.fsm = .idle ∧ (awaiting 1).fsm = .await ∧ (awaiting 1).queue = ⟨.setTemp, 4000#16⟩ :: [] ∧
    tryDecode ([] ++ ascii ['*']) = .incomplete ∧ tryDecode ([] ++ ascii ['^']) = .invalidShape ∧
    tryDecode (ascii ['*', '0', 'f', 'a', '0'] ++ ascii ['2', '7', '^'])
      = .frame (ascii ['0', 'f', 'a', '0']) (ascii ['2', '7']) ∧
    verifyChecksum (ascii ['0', 'f', 'a', '0']) (ascii ['2', '7']) = .ok 4000#16 ∧
    tryDecode ([] ++ badReply) = .frame (ascii ['0', 'f', 'a', '0']) (ascii ['2', '8']) ∧
    verifyChecksum (ascii ['0', 'f', 'a', '0']) (ascii ['2', '8']) = .mismatch := by decide
theorem witness_CorrectReplyReportsItsValue :
    (awaiting 1).fsm = .await ∧ (awaiting 1).rxbuf = [] ∧ [] ++ goodReply = responseFrame 4000#16 ∧
    ascii ['*', 'f', 'f', 'f', 'f', '9', '8'] ++ ascii ['^'] = responseFrame 65535#16 ∧ goodReply ≠ [] := by decide
theorem witness_ChunkingDecidesTheOutcome :
    (awaiting 1).fsm = .await ∧ (awaiting 1).rxbuf = [] ∧ shapeOK badReply = true ∧ ascii ['x'] ≠ [] := by decide
theorem witness_GarbageBlocksTheMatch :
    (st true .await qs (ascii ['^']) 1).fsm = .await ∧ tryDecode (st true .await qs (ascii ['^']) 1).rxbuf = .invalidShape ∧
    tryDecode (goodReply ++ ascii ['^']) = .invalidShape := by decide
theorem witness_TimeTickCountsDownAndExpires :
    ready.fsm = .idle ∧ (awaiting 2).tmrCnt = 0 + 2 ∧ (awaiting 1000).tmrCnt = 998 + 2 ∧ (awaiting 1).tmrCnt = 1 ∧
    (awaiting 1).fsm = .await ∧ (awaiting 1).queue = ⟨.setTemp, 4000#16⟩ :: [] := by decide
theorem witness_TimeoutFiresAtTheLastTick :
    answer (answering .ok (st true .idle qs [] 0)) = .ok ∧ 1 ≤ Config.default.tTimeout ∧
    completes (exec .dispatch { answering .ok (st true .idle qs [] 0) with cfg := { Config.default with tTimeout := 1 } })
      = true := by decide
theorem witness_LineErrorReportsAndRecovers :
    (st true .idle qs [] 0).queue = ⟨.setTemp, 4000#16⟩ :: [] ∧ closed.queue = [] := by decide
theorem witness_ResponseFrameArrivesAsOneChunk :
    ready.fsm = .idle ∧ (awaiting 1).fsm = .await ∧ (awaiting 1).rxbuf = [] ∧
    (Instr.wireResponse 0x30#8 0x66#8 0x61#8 0x30#8 0x32#8 0x37#8).wellFormed = true ∧
    verifyChecksum [0x30#8, 0x66#8, 0x61#8, 0x30#8] [0x32#8, 0x37#8] = .ok 4000#16 ∧
    verifyChecksum [0x30#8, 0x66#8, 0x61#8, 0x30#8] [0x32#8, 0x38#8] = .mismatch := by decide
theorem witness_FrameMatchIsExact :
    tryDecode goodReply = .frame (ascii ['0', 'f', 'a', '0']) (ascii ['2', '7']) ∧ shapeOK goodReply = true ∧
    (ascii ['x'] ≠ [] ∨ ([] : List Byte) ≠ []) := by decide
theorem witness_ChecksumVerification :
    (Instr.wireResponse 0x30#8 0x66#8 0x61#8 0x30#8 0x32#8 0x37#8).wellFormed = true ∧
    (0x30 + 0x66 + 0x61 + 0x30) % 256 = 16 * hexval 0x32#8 + hexval 0x37#8 ∧
    (0x30 + 0x66 + 0x61 + 0x30) % 256 ≠ 16 * hexval 0x32#8 + hexval 0x38#8 := by decide
theorem witness_DefaultCodeTable : Command.setPowerStatus ≠ .none := by decide
theorem witness_SaturatedStoreIsEnough :
    min (goodReply ++ ascii ['^']).length 9 = min (goodReply ++ ascii ['x', 'y']).length 9 ∧
    (goodReply ++ ascii ['^']).take 8 = (goodReply ++ ascii ['x', 'y']).take 8 ∧ shapeOK goodReply = true := by decide
theorem witness_next_states :
    completes (exec .openLink (answering .ok closed)) = true ∧ Instr.openLink ≠ .dispatch ∧
    completes (exec (.rxChunk badReply) (awaiting 1)) = true ∧
    completes (exec (.lineError 127#7 true) (awaiting 1)) = true := by decide
theorem witness_NotificationsComeFromTheirRules :
    (after closed (exec .readOutput closed)).out = closed.out ++ [.nError .notOpen 3#8 0#8] ∧
    (after closed (exec (.rxChunk badReply) (awaiting 1))).out
      = (awaiting 1).out ++ [.nRawFrame badReply, .nError .checksumMismatch 60#8 0#8] ∧
    (after closed (exec .timeTick (awaiting 1))).out = (awaiting 1).out ++ [.nError .responseTimeout 60#8 0#8] ∧
    (after closed (exec (.lineError 127#7 true) (awaiting 1))).out
      = (awaiting 1).out ++ [.nError .transportFault 60#8 127#8, .nFatal 127#8] := by decide
theorem witness_NotificationsComeFromTheirRules_values :
    (after closed (exec (.rxChunk goodReply) (awaiting 1))).out = (awaiting 1).out ++ [.nRawFrame goodReply, .nValue 4000#16 60#8] ∧
    (after closed (exec .isOpen ready)).out = ready.out ++ [.rIsOpen true] := by decide
theorem witness_FlagsChangeOnlyByTheirRules :
    (after closed (exec .openLink (answering .ok closed))).isOpen = true ∧
    (after ready (exec .closeLink ready)).isOpen = false ∧
    (after ready (exec .dispatch (answering .ok (st true .idle qs [] 0)))).fsm = .await ∧
    (after (awaiting 1) (exec .timeTick (awaiting 1))).fsm = .idle := by decide

end Sys2Proof.Tests
end

/-! PROOFS. The statements of the family 00_scope: a request at a full queue, the response frame as one chunk, the words of a
held host, the decoded step, and the request frames met as inputs. -/

namespace Sys2Proof

/-! ### The decoder answers an instruction of its own port -/

theorem decodeHostFields_port {opc : Byte} {opnd : Half} {rest rest' : List Byte} {i : Instr}
    (h : decodeHostFields opc opnd rest = .word i rest') : i.port = .hostOp := by
  unfold decodeHostFields at h
  split at h
  · cases h; rfl
  split at h
  · split at h <;> cases h
    rfl
  split at h
  · rename_i row hrow
    split at h <;> cases h
    exact (bareHostOps_row row (bareHostOps_find hrow).1).2.1
  · cases h

theorem decodeHost_port {bs rest : List Byte} {i : Instr} (h : decodeHost bs = .word i rest) : i.port = .hostOp := by
  unfold decodeHost at h
  split at h
  · exact decodeHostFields_port h
  · cases h

theorem decodeChunk_port {n : Nat} {bs rest : List Byte} {i : Instr} (h : decodeChunk n bs = .word i rest) :
    i.port = .rxEv := by
  unfold decodeChunk at h
  split at h
  · cases h
  split at h <;> cases h
  rfl

theorem decodeEvent_port {bs rest : List Byte} {i : Instr} (h : decodeEvent bs = .word i rest) : i.port = .rxEv := by
  unfold decodeEvent at h
  split at h
  · unfold decodeEventFields at h
    split at h
    · split at h
      · exact decodeChunk_port h
      · cases h
    split at h
    · split at h <;> cases h
      rfl
    split at h
    · split at h <;> cases h
      rfl
    · cases h
  · cases h

theorem decodeReset_port {bs rest : List Byte} {i : Instr} (h : decodeReset bs = .word i rest) : i.port = .rst := by
  unfold decodeReset at h
  split at h
  · split at h <;> cases h
    rfl
  · cases h

theorem decodeRecordFields_port {tag b1 b2 b3 : Byte} {rest rest' : List Byte} {i : Instr}
    (h : decodeRecordFields tag b1 b2 b3 rest = .word i rest') : i.port = .hostOut := by
  unfold decodeRecordFields at h
  split at h
  · cases h; rfl
  split at h
  · cases h; rfl
  split at h
  · split at h
    · split at h <;> cases h
      rfl
    · cases h
  split at h
  · split at h <;> cases h
    rfl
  split at h
  · split at h <;> cases h
    rfl
  · cases h

theorem decodeRecord_port {bs rest : List Byte} {i : Instr} (h : decodeRecord bs = .word i rest) :
    i.port = .hostOut := by
  unfold decodeRecord at h
  split at h
  · exact decodeRecordFields_port h
  · cases h

@[simp] theorem wireInstr_port (c : Command) (p : Half) : (wireInstr c p).port = .tx := by
  cases c <;> rfl

theorem decodeRequest_port {bs rest : List Byte} {i : Instr} (h : decodeRequest bs = .word i rest) : i.port = .tx := by
  unfold decodeRequest at h
  split at h
  · cases h
  split at h
  · rename_i hf
    cases h
    obtain ⟨c, p, rfl, -⟩ := encodeFrame_of_decodeFrame hf
    exact wireInstr_port c p
  · cases h

theorem decodeResponse_port {bs rest : List Byte} {i : Instr} (h : decodeResponse bs = .word i rest) :
    i.port = .line := by
  unfold decodeResponse at h
  split at h
  · split at h <;> cases h
    rfl
  · cases h

/-- What is decoded on a port is an instruction of that port (R6, R87). -/
theorem decode_port {p : Port} {bs rest : List Byte} {i : Instr} (h : decode p bs = .word i rest) : i.port = p := by
  cases p
  case hostOp => exact decodeHost_port h
  case rxEv => exact decodeEvent_port h
  case rst => exact decodeReset_port h
  case hostOut => exact decodeRecord_port h
  case tx => exact decodeRequest_port h
  case line => exact decodeResponse_port h

end Sys2Proof

namespace Sys2Proof.Machine

/-! ### What the next input may say -/

theorem spells_iff {inp : Input} {i : Instr} :
    spells inp i = true ↔ ∃ rest, decode inp.port inp.bytes = .word i rest := by
  unfold spells
  cases decode inp.port inp.bytes <;> simp

/-- An input that spells an instruction is read as no other. -/
theorem readInput_of_spells {inp : Input} {i j : Instr} {rest : List Byte} (hs : spells inp j = true)
    (hr : readInput inp = .word i rest) : i = j := by
  obtain ⟨rest', hd⟩ := spells_iff.1 hs
  rw [readInput_of_decode hd] at hr
  cases hr
  rfl

/-- What an input on a port other than `host_op` says is no host operation. -/
theorem readInput_port_ne_hostOp {inp : Input} {i : Instr} {rest : List Byte} (hp : inp.port ≠ .hostOp)
    (hr : readInput inp = .word i rest) : i.port ≠ .hostOp := by
  obtain hd | ⟨-, -, rfl, -⟩ := readInput_cases hr
  · rwa [decode_port hd]
  · intro h
    cases h

/-- What an input of an agent other than the host says is no host operation but DISPATCH (R5). -/
theorem readInput_of_otherAgent {inp : Input} {i : Instr} {rest : List Byte} (ho : otherAgent inp = true)
    (hr : readInput inp = .word i rest) : i.port ≠ .hostOp ∨ i = .dispatch := by
  obtain hp | hs : inp.port ≠ .hostOp ∨ spells inp .dispatch = true := by simpa [otherAgent] using ho
  · exact .inl (readInput_port_ne_hostOp hp hr)
  · exact .inr (readInput_of_spells hs hr)

/-- Taking an input, with its rest told by equality with the empty list. -/
theorem takeInput_eq (passed later : List Input) (inp : Input) (rest : List Byte) (s : State) :
    takeInput ⟨passed, inp, later⟩ rest s = { s with
      inbox := passed ++ if rest = [] then later else { inp with bytes := rest } :: later
      portCfg := inp.portCfg
      draw := inp.draw } := by
  simp [takeInput, restOfInbox]

/-! ### A full queue and a completed frame -/

/-- On an open link a request at a full queue waits (R123). -/
theorem request_of_full {c : Command} {p : Half} {s : State} (ho : s.isOpen = true)
    (hq : s.cfg.qDepth = some s.queue.length) : request c p s = hold c p s := by
  simp [request, ho, queueFull_iff.2 hq]

/-- Received bytes are discarded in IDLE (R150). -/
theorem receive_of_idle {s : State} (bs : List Byte) (hf : s.fsm = .idle) : receive bs s = s := by
  simp [receive, tmrRunning_false_iff.2 hf]

@[simp] theorem headTag_emit (r : Record) (s : State) : headTag (emit r s) = headTag s := rfl

@[simp] theorem headTag_setTimer (n : Nat) (s : State) : headTag (setTimer n s) = headTag s := rfl

section
variable {s : State} {bs d k : List Byte} {e : Entry} {q : List Entry}

/-- In AWAIT, bytes that complete a frame resolve the head (R150). -/
theorem receive_of_frame (hf : s.fsm = .await) (ht : tryDecode (s.rxbuf ++ bs) = .frame d k) :
    receive bs s = resolveFrame (s.rxbuf ++ bs) d k s := by
  simp [receive, tmrRunning_iff.2 hf, ht]

theorem headTag_of_cons (hq : s.queue = e :: q) : headTag s = cmdTag s.cfg.cmdCode e.cmd := by
  simp [headTag, headCmd, hq]

/-- A frame whose checksum verifies is reported as its value with the head's command (R151). -/
theorem receive_block_of_ok {v : Half} (hf : s.fsm = .await) (hq : s.queue = e :: q)
    (ht : tryDecode (s.rxbuf ++ bs) = .frame d k) (hv : verifyChecksum d k = .ok v) :
    (receive bs s).block = { s.block with
      fsm := .idle
      tmrCnt := 0
      rxbuf := []
      queue := q
      out := s.out ++ [.nRawFrame (s.rxbuf ++ bs), .nValue v (cmdTag s.cfg.cmdCode e.cmd)] } := by
  rw [receive_of_frame hf ht]
  obtain ⟨v', hv', hr⟩ | ⟨hm, -⟩ := resolveFrame_cases (s.rxbuf ++ bs) d k s
  · cases hv.symm.trans hv'
    simp [hr, State.block, hq, headTag_of_cons hq]
  · cases hv.symm.trans hm

/-- A frame whose checksum fails is reported as a ChecksumMismatch with the head's command (R152). -/
theorem receive_block_of_mismatch (hf : s.fsm = .await) (hq : s.queue = e :: q)
    (ht : tryDecode (s.rxbuf ++ bs) = .frame d k) (hv : verifyChecksum d k = .mismatch) :
    (receive bs s).block = { s.block with
      fsm := .idle
      tmrCnt := 0
      rxbuf := []
      queue := q
      out := s.out ++ [.nRawFrame (s.rxbuf ++ bs), .nError .checksumMismatch (cmdTag s.cfg.cmdCode e.cmd) 0#8] } := by
  rw [receive_of_frame hf ht]
  obtain ⟨v, hv', -⟩ | ⟨-, hr⟩ := resolveFrame_cases (s.rxbuf ++ bs) d k s
  · cases hv.symm.trans hv'
  · simp [hr, State.block, hq, headTag_of_cons hq]

end

/-- The response frame's row runs as the receipt of its 8 bytes in one chunk (R5, log 11). -/
theorem exec_wireResponse (d0 d1 d2 d3 k0 k1 : Byte) (s : State) :
    exec (.wireResponse d0 d1 d2 d3 k0 k1) s = .next (receive [star, d0, d1, d2, d3, k0, k1, caret] s) := rfl

/-! ### The statements -/

/-- Settles O14: the row's request is the held case of `Request(c, p)`. -/
theorem fullQueueHoldsTheRequest : Obligations.FullQueueHoldsTheRequest := by
  intro i opc opnd c p s hr ho hq
  rw [exec_request hr, request_of_full ho hq]
  rfl

/-- Settles O24: the 8 bytes on an empty buffer are a whole frame, which the receipt of a chunk resolves. -/
theorem responseFrameArrivesAsOneChunk : Obligations.ResponseFrameArrivesAsOneChunk := by
  refine ⟨fun s d0 d1 d2 d3 k0 k1 hf => ?_, fun s d0 d1 d2 d3 k0 k1 e q hf hb hq hw => ?_⟩
  · rw [exec_wireResponse, receive_of_idle _ hf]
  · have ht : tryDecode (s.rxbuf ++ [star, d0, d1, d2, d3, k0, k1, caret]) = .frame [d0, d1, d2, d3] [k0, k1] := by
      rw [hb]
      exact tryDecode_shaped d0 d1 d2 d3 k0 k1 (List.all_eq_true.1 hw)
    refine ⟨fun v hv => ⟨_, exec_wireResponse .., ?_⟩, fun hv => ⟨_, exec_wireResponse .., ?_⟩⟩
    · rw [receive_block_of_ok hf hq ht hv]
      simp [State.block, hb]
    · rw [receive_block_of_mismatch hf hq ht hv]
      simp [State.block, hb]

/-- Settles O42: while a request is held the next input spells CLOSE or is another agent's. -/
theorem heldHostIssuesOnlyClose : Obligations.HeldHostIssuesOnlyClose := by
  intro s s' i hh hfetch
  obtain ⟨passed, inp, later, rest, ⟨-, hnext⟩, hr, -⟩ := fetch_instr hfetch
  obtain ⟨hnone, -⟩ | ⟨-, -, hclose⟩ | ⟨-, hother, -⟩ := hnext
  · exact absurd hnone hh
  · exact .inr (.inr (readInput_of_spells hclose hr))
  · exact (readInput_of_otherAgent hother hr).imp_right .inl

/-- Settles O5: `step_of_decode`, with the state after taking the input written out. -/
theorem stepRunsDecodedInstruction : Obligations.StepRunsDecodedInstruction := by
  intro s passed inp later i rest hn hf hd _
  rw [step_of_decode hn hf hd, takeInput_eq]

/-- Settles O26: each of the eight rows has the refusal as its meaning. -/
theorem requestFramesAreNeverInputs : Obligations.RequestFramesAreNeverInputs := by
  intro s c p
  cases c <;> rfl

end Sys2Proof.Machine

/-! PROOFS. The statements of the family 10_state: the effects an instruction can have, and from them the invariant, the frame
on the environment, and the rules by which the queue, the flags and the histories change. -/

namespace Sys2Proof.Machine

/-! ### The effects of an instruction -/

/-- The events that resolve the head: a timeout or a frame in AWAIT (R151, R152, R155), or a line error (R156). -/
def ResolvesHead (i : Instr) (s : State) : Prop :=
  (s.fsm = .await ∧ (i = .timeTick ∨ ReceivesBytes i)) ∨ ∃ kind fatal, i = .lineError kind fatal

/-- The states an instruction may answer, one constructor per way the rules change a state; `exec_effect` ties it to
`exec`. -/
inductive Effect (i : Instr) (s : State) : State → Prop where
  | unchanged : Effect i s s
  | reported (hi : i = .isOpen) : Effect i s (emit (.rIsOpen s.isOpen) s)
  | notOpen {opc : Byte} {opnd : Half} {c : Command} {p : Half} (hrow : requestRow i = some (opc, opnd, c, p))
      (hclosed : s.isOpen = false) : Effect i s (raiseError .notOpen c 0#8 s)
  | enqueued {opc : Byte} {opnd : Half} {c : Command} {p : Half} (hrow : requestRow i = some (opc, opnd, c, p))
      (hopen : s.isOpen = true) (hroom : s.cfg.qDepth ≠ some s.queue.length) : Effect i s (enqueue c p s)
  | held {opc : Byte} {opnd : Half} {c : Command} {p : Half} (hrow : requestRow i = some (opc, opnd, c, p))
      (hfull : s.cfg.qDepth = some s.queue.length) : Effect i s (hold c p s)
  | openFailed (hi : i = .openLink) : Effect i s (xopen s)
  | opened (hi : i = .openLink) (hclosed : s.isOpen = false) (hok : answer s = .ok) :
      Effect i s (clearLink (setOpen true (xopen s)))
  | disconnected (hi : i = .closeLink) : Effect i s (clearLink (setOpen false (xclose s)))
  | cleared (hi : i = .closeLink ∨ i = .reset) : Effect i s (clearLink (setOpen false s))
  | writeFailed {e : Entry} {q : List Entry} (hi : i = .dispatch) (hidle : s.fsm = .idle) (hqueue : s.queue = e :: q)
      (hfail : answer s = .fail) : Effect i s (send (encodeFrame s.cfg.cmdCode e.cmd e.payload) s)
  | transmitted {e : Entry} {q : List Entry} (hi : i = .dispatch) (hopen : s.isOpen = true) (hidle : s.fsm = .idle)
      (hqueue : s.queue = e :: q) (hok : answer s = .ok) :
      Effect i s (setTimer s.cfg.tTimeout (setFsm .await (send (encodeFrame s.cfg.cmdCode e.cmd e.payload) s)))
  | buffered {bs : List Byte} (hi : ReceivesBytes i) (hawait : s.fsm = .await)
      (hshape : shapeOK (s.rxbuf ++ bs) = false) : Effect i s (appendBuf bs s)
  | counted (hi : i = .timeTick) (hawait : s.fsm = .await) (hcount : 2 ≤ s.tmrCnt) :
      Effect i s (setTimer (s.tmrCnt - 1) s)
  | resolved {rs : List Record} (hi : ResolvesHead i s) (hrs : EventRecords rs) :
      Effect i s { resolveHead s with out := s.out ++ rs }

section
variable {i : Instr} {s : State}

/-- OPEN (R120). -/
theorem connect_effect (hi : i = .openLink) : Effect i s (connect s) := by
  obtain ⟨-, h⟩ | ⟨hc, hok, h⟩ | ⟨-, -, h⟩ := connect_cases s <;> rw [h]
  · exact .unchanged
  · exact .opened hi hc hok
  · exact .openFailed hi

/-- CLOSE (R121). -/
theorem disconnect_effect (hi : i = .closeLink) : Effect i s (disconnect s) := by
  obtain ⟨-, h⟩ | ⟨-, h⟩ := disconnect_cases s <;> rw [h]
  · exact .disconnected hi
  · exact .cleared (.inl hi)

/-- A request (R123). -/
theorem request_effect {opc : Byte} {opnd : Half} {c : Command} {p : Half}
    (hrow : requestRow i = some (opc, opnd, c, p)) : Effect i s (request c p s) := by
  obtain ⟨hc, h⟩ | ⟨-, hfull, h⟩ | ⟨ho, hroom, h⟩ := request_cases c p s <;> rw [h]
  · exact .notOpen hrow hc
  · exact .held hrow hfull
  · exact .enqueued hrow ho hroom

/-- DISPATCH (R131). -/
theorem transmit_effect (hi : i = .dispatch) : Effect i s (transmit s) := by
  obtain ⟨-, h⟩ | ⟨e, q, ho, hf, hq, ⟨hok, h⟩ | ⟨hfail, h⟩⟩ := transmit_cases s <;> rw [h]
  · exact .unchanged
  · exact .transmitted hi ho hf hq hok
  · exact .writeFailed hi hf hq hfail

/-- A resolved frame drops the head and appends records, whatever its checksum says (R151, R152). -/
theorem resolveFrame_eq_resolveHead (buf d k : List Byte) (s : State) :
    ∃ rs, EventRecords rs ∧ resolveFrame buf d k s = { resolveHead s with out := s.out ++ rs } := by
  obtain ⟨v, -, h⟩ | ⟨-, h⟩ := resolveFrame_cases buf d k s <;> rw [h]
  · exact ⟨_, .value buf v (headTag s), by rw [List.append_cons]; rfl⟩
  · exact ⟨_, .mismatch buf (headTag s), by rw [List.append_cons]; rfl⟩

/-- Received bytes (R150-R153). -/
theorem receive_effect (bs : List Byte) (hi : ReceivesBytes i) : Effect i s (receive bs s) := by
  obtain ⟨-, h⟩ | ⟨hf, hs, h⟩ | ⟨d, k, hf, -, h⟩ := receive_cases bs s
  · rw [h]; exact .unchanged
  · rw [h]; exact .buffered hi hf hs
  · obtain ⟨rs, hrs, hr⟩ := resolveFrame_eq_resolveHead (s.rxbuf ++ bs) d k s
    rw [h, hr]
    exact .resolved (.inl ⟨hf, .inr hi⟩) hrs

/-- TIME_TICK (R154, R155). -/
theorem tick_effect (hi : i = .timeTick) : Effect i s (tick s) := by
  obtain ⟨-, h⟩ | ⟨hf, hn, h⟩ | ⟨hf, -, h⟩ := tick_cases s <;> rw [h]
  · exact .unchanged
  · exact .counted hi hf hn
  · exact .resolved (.inl ⟨hf, .inl hi⟩) (.error .responseTimeout (headTag s) 0#8)

/-- LINE_ERROR (R156, R157). -/
theorem lineFault_effect {kind : BitVec 7} {fatal : Bool} (detail : Byte) (hi : i = .lineError kind fatal) :
    Effect i s (lineFault detail fatal s) := by
  have hr : ResolvesHead i s := .inr ⟨kind, fatal, hi⟩
  cases fatal
  · exact .resolved hr (.error .transportFault (headTag s) detail)
  · have := Effect.resolved hr (.fatal (headTag s) detail)
    rwa [List.append_cons] at this

/-- An instruction that answers a next state has one of the effects. -/
theorem exec_effect {t : State} (h : exec i s = .next t) : Effect i s t := by
  obtain ⟨hi, rfl⟩ | ⟨hi, rfl⟩ | ⟨hi, rfl⟩ | ⟨opc, opnd, c, p, hrow, rfl⟩ | ⟨hi, rfl⟩ | ⟨bs, hi, rfl⟩ |
    ⟨kind, fatal, hi, rfl⟩ | ⟨hi, rfl⟩ | ⟨hi, rfl⟩ := exec_cases h
  · exact connect_effect hi
  · exact disconnect_effect hi
  · exact .reported hi
  · exact request_effect hrow
  · exact transmit_effect hi
  · refine receive_effect bs (hi.imp (fun h => ⟨bs, h⟩) ?_)
    rintro ⟨d0, d1, d2, d3, k0, k1, h, -⟩
    exact ⟨d0, d1, d2, d3, k0, k1, h⟩
  · exact lineFault_effect _ hi
  · exact tick_effect hi
  · exact .cleared (.inr hi)

end

/-! ### The rows of the command requests -/

section
variable {i : Instr} {opc : Byte} {opnd : Half} {c : Command} {p : Half}

/-- No request enqueues NONE (R23). -/
theorem requestRow_command_ne_none (h : requestRow i = some (opc, opnd, c, p)) : c ≠ .none := by
  rintro rfl
  cases i <;> cases h

/-- A request is a host operation other than DISPATCH and CLOSE (R75). -/
theorem requestRow_hostOp (h : requestRow i = some (opc, opnd, c, p)) :
    i.port = .hostOp ∧ i ≠ .dispatch ∧ i ≠ .closeLink := by
  cases i <;> cases h <;> exact ⟨rfl, nofun, nofun⟩

end

/-! ### The invariant -/

section
variable {s t : State}

/-- The invariant reads nothing of the histories, the inbox and the side signals. -/
theorem BlockInv.with_environment (h : BlockInv s) (o : List Record) (x : List TxEntry) (ib : List Input)
    (pc : PortConfig) (v : Option Verdict) (n : Nat) (xc : List XportCall) :
    BlockInv { s with out := o, txlog := x, inbox := ib, portCfg := pc, draw := v, drawn := n, xctl := xc } :=
  ⟨h.config, h.closed, h.awaiting, h.idle, h.noFrame, h.commands, h.depth, h.heldOnlyIfFinite, h.heldAtMostOne⟩

theorem blockInv_takeInput (h : BlockInv s) (c : Chosen) (rest : List Byte) : BlockInv (takeInput c rest s) :=
  h.with_environment ..

/-- A cleared link has the invariant, open or closed (R39). -/
theorem blockInv_clearLink (h : BlockInv s) (b : Bool) : BlockInv (clearLink (setOpen b s)) where
  config := h.config
  closed _ := ⟨rfl, rfl, rfl, rfl⟩
  awaiting := nofun
  idle _ := ⟨rfl, rfl⟩
  noFrame := nofun
  commands e he := h.commands e (List.mem_append_right _ he)
  depth _ _ := Nat.zero_le _
  heldOnlyIfFinite := h.heldOnlyIfFinite
  heldAtMostOne := h.heldAtMostOne

/-- So does the block once its head is resolved (R151, R152, R155, R156). -/
theorem blockInv_resolveHead (h : BlockInv s) : BlockInv (resolveHead s) where
  config := h.config
  closed hc := ⟨rfl, by simp [(h.closed hc).2.1], rfl, rfl⟩
  awaiting := nofun
  idle _ := ⟨rfl, rfl⟩
  noFrame := nofun
  commands e he := h.commands e ((List.mem_append.1 he).elim
    (fun hq => List.mem_append_left _ (List.mem_of_mem_tail hq)) (List.mem_append_right _))
  depth d hd := le_trans (by simp) (h.depth d hd)
  heldOnlyIfFinite := h.heldOnlyIfFinite
  heldAtMostOne := h.heldAtMostOne

/-- A command is enqueued on an open link with room (R123). -/
theorem blockInv_enqueue (h : BlockInv s) {c : Command} (p : Half) (hc : c ≠ .none) (ho : s.isOpen = true)
    (hroom : s.cfg.qDepth ≠ some s.queue.length) : BlockInv (enqueue c p s) where
  config := h.config
  closed hcl := by simp [ho] at hcl
  awaiting hf := by
    obtain ⟨-, -, htmr⟩ := h.awaiting hf
    exact ⟨ho, by simp, htmr⟩
  idle := h.idle
  noFrame := h.noFrame
  commands e he := by
    simp only [enqueue_queue, enqueue_held, List.mem_append, List.mem_singleton] at he
    obtain (hq | rfl) | hh := he
    · exact h.commands e (List.mem_append_left _ hq)
    · exact hc
    · exact h.commands e (List.mem_append_right _ hh)
  depth d hd := by
    have hle := h.depth d hd
    have hne : s.queue.length ≠ d := fun heq => hroom (heq ▸ hd)
    simp only [enqueue_queue, List.length_append, List.length_singleton]
    omega
  heldOnlyIfFinite := h.heldOnlyIfFinite
  heldAtMostOne := h.heldAtMostOne

/-- A command is held at a full queue, where none was held (R11, R123). -/
theorem blockInv_hold (h : BlockInv s) {c : Command} (p : Half) (hc : c ≠ .none) (hh : s.held = [])
    (hfull : s.cfg.qDepth = some s.queue.length) : BlockInv (hold c p s) where
  config := h.config
  closed := h.closed
  awaiting := h.awaiting
  idle := h.idle
  noFrame := h.noFrame
  commands e he := by
    simp only [hold_queue, hold_held, hh, List.nil_append, List.mem_append, List.mem_singleton] at he
    obtain hq | rfl := he
    · exact h.commands e (List.mem_append_left _ hq)
    · exact hc
  depth := h.depth
  heldOnlyIfFinite _ := by simp [hfull]
  heldAtMostOne := by simp [hh]

/-- A frame sent from IDLE puts the block in AWAIT with the timer loaded (R131). -/
theorem blockInv_transmitted (h : BlockInv s) (f : List Byte) (ho : s.isOpen = true) (hf : s.fsm = .idle)
    (hq : s.queue ≠ []) : BlockInv (setTimer s.cfg.tTimeout (setFsm .await (send f s))) where
  config := h.config
  closed hc := by simp [ho] at hc
  awaiting _ := ⟨ho, hq, h.config.1, le_rfl⟩
  idle := nofun
  noFrame _ := by simp [(h.idle hf).1, shapeOK]
  commands := h.commands
  depth := h.depth
  heldOnlyIfFinite := h.heldOnlyIfFinite
  heldAtMostOne := h.heldAtMostOne

/-- Bytes that make no frame stay in the buffer in AWAIT (R150). -/
theorem blockInv_appendBuf (h : BlockInv s) {bs : List Byte} (hf : s.fsm = .await)
    (hs : shapeOK (s.rxbuf ++ bs) = false) : BlockInv (appendBuf bs s) where
  config := h.config
  closed hc := by simp [(h.awaiting hf).1] at hc
  awaiting := h.awaiting
  idle hi := by simp [hf] at hi
  noFrame _ := hs
  commands := h.commands
  depth := h.depth
  heldOnlyIfFinite := h.heldOnlyIfFinite
  heldAtMostOne := h.heldAtMostOne

/-- A counter above 1 counts down in AWAIT (R154). -/
theorem blockInv_countdown (h : BlockInv s) (hf : s.fsm = .await) (hn : 2 ≤ s.tmrCnt) :
    BlockInv (setTimer (s.tmrCnt - 1) s) where
  config := h.config
  closed hc := by simp [(h.awaiting hf).1] at hc
  awaiting _ := by
    obtain ⟨ho, hq, -, hle⟩ := h.awaiting hf
    exact ⟨ho, hq, Nat.le_sub_one_of_lt hn, (Nat.sub_le _ _).trans hle⟩
  idle hi := by simp [hf] at hi
  noFrame := h.noFrame
  commands := h.commands
  depth := h.depth
  heldOnlyIfFinite := h.heldOnlyIfFinite
  heldAtMostOne := h.heldAtMostOne

/-- A held request leaves the list when it is taken (R123). -/
theorem blockInv_takeHeld (h : BlockInv s) {e : Entry} {later : List Entry} (hh : s.held = e :: later) :
    BlockInv { s with held := later } where
  config := h.config
  closed := h.closed
  awaiting := h.awaiting
  idle := h.idle
  noFrame := h.noFrame
  commands x hx := h.commands x ((List.mem_append.1 hx).elim (List.mem_append_left _)
    fun hl => List.mem_append_right _ (hh ▸ List.mem_cons_of_mem _ hl))
  depth := h.depth
  heldOnlyIfFinite _ := h.heldOnlyIfFinite (by simp [hh])
  heldAtMostOne := le_trans (by simp [hh]) h.heldAtMostOne

/-- Every effect keeps the invariant; a request needs that none is held (R11). -/
theorem blockInv_effect {i : Instr} (h : BlockInv s) (hh : requestRow i ≠ none → s.held = []) (he : Effect i s t) :
    BlockInv t := by
  cases he with
  | unchanged => exact h
  | reported | notOpen | openFailed | writeFailed => exact h.with_environment ..
  | enqueued hrow ho hroom => exact blockInv_enqueue h _ (requestRow_command_ne_none hrow) ho hroom
  | held hrow hfull => exact blockInv_hold h _ (requestRow_command_ne_none hrow) (hh (by simp [hrow])) hfull
  | opened => exact (blockInv_clearLink h true).with_environment ..
  | disconnected => exact (blockInv_clearLink h false).with_environment ..
  | cleared => exact blockInv_clearLink h false
  | transmitted _ ho hf hq => exact blockInv_transmitted h _ ho hf (by simp [hq])
  | buffered _ hf hs => exact blockInv_appendBuf h hf hs
  | counted _ hf hn => exact blockInv_countdown h hf hn
  | resolved => exact (blockInv_resolveHead h).with_environment ..

/-- While a request is held, no step runs another one (R11). -/
theorem held_eq_nil_of_request {passed later : List Input} {inp : Input} {i : Instr} {rest : List Byte}
    (hn : NextInput s passed inp later) (hr : readInput inp = .word i rest) (hi : requestRow i ≠ none) :
    s.held = [] := by
  obtain ⟨⟨opc, opnd, c, p⟩, hrow⟩ := Option.ne_none_iff_exists'.1 hi
  obtain ⟨hport, hdispatch, hclose⟩ := requestRow_hostOp hrow
  obtain ⟨-, ⟨hh, -⟩ | ⟨-, -, hspells⟩ | ⟨-, hother, -⟩⟩ := hn
  · exact hh
  · exact absurd (readInput_of_spells hspells hr) hclose
  · obtain hp | hd := readInput_of_otherAgent hother hr
    · exact absurd hport hp
    · exact absurd hd hdispatch

/-- A held request that has its step is not held again (R123). -/
theorem blockInv_heldRequest (h : BlockInv s) {e : Entry} {later : List Entry} (hh : s.held = e :: later)
    (hr : requestHasStep s = true) : BlockInv (request e.cmd e.payload { s with held := later }) := by
  have h' : BlockInv { s with held := later } := blockInv_takeHeld h hh
  have hc : e.cmd ≠ .none := h.commands e (by simp [hh])
  obtain ⟨-, heq⟩ | ⟨ho, hfull, -⟩ | ⟨ho, hroom, heq⟩ := request_cases e.cmd e.payload { s with held := later }
  · rw [heq]; exact h'.with_environment ..
  · have hf : queueFull s = true := queueFull_iff.2 hfull
    simp [requestHasStep, hf, show s.isOpen = true from ho] at hr
  · rw [heq]; exact blockInv_enqueue h' _ hc ho hroom

end

/-- Settles O33: a step idles, takes a held request, or runs an instruction whose effect keeps the invariant. -/
theorem stepKeepsInvariant : Obligations.StepKeepsInvariant := by
  intro s t h hstep
  obtain rfl | ⟨e, later, hh, hr, rfl⟩ | ⟨passed, inp, later, i, rest, hn, hread, hexec⟩ := step_cases hstep
  · exact h
  · exact blockInv_heldRequest h hh hr
  · have hh : requestRow i ≠ none → s.held = [] := held_eq_nil_of_request hn hread
    exact blockInv_effect (blockInv_takeInput h ..) hh (exec_effect hexec)

/-! ### How the parts of the state change -/

section
variable {i : Instr} {s t : State}

/-- TXLOG grows by at most one entry, in IDLE, and an ok one puts the block in AWAIT (R131). -/
theorem Effect.txlog_cases (h : Effect i s t) :
    t.txlog = s.txlog ∨
    ∃ x : TxEntry, t.txlog = s.txlog ++ [x] ∧ s.fsm = .idle ∧ (x.verdict = .ok ↔ t.fsm = .await) := by
  cases h with
  | writeFailed _ hidle _ hfail => exact .inr ⟨_, rfl, hidle, by simp [hidle, hfail]⟩
  | transmitted _ _ hidle _ hok => exact .inr ⟨_, rfl, hidle, by simp [hok]⟩
  | _ => exact .inl rfl

/-- What ends AWAIT drops the head or empties the queue (R33). -/
theorem Effect.queue_of_await_idle (h : Effect i s t) (hs : s.fsm = .await) (ht : t.fsm = .idle) :
    t.queue = s.queue.tail ∨ t.queue = [] := by
  cases h with
  | resolved => exact .inl rfl
  | opened | disconnected | cleared => exact .inr rfl
  | transmitted => cases ht
  | _ => cases hs.symm.trans ht

/-- How the queue changes (R22). -/
theorem Effect.queue_cases (h : Effect i s t) :
    t.queue = s.queue ∨
    (∃ opc opnd c p, requestRow i = some (opc, opnd, c, p) ∧ s.isOpen = true ∧ t.queue = s.queue ++ [⟨c, p⟩]) ∨
    (t.queue = s.queue.tail ∧ ResolvesHead i s) ∨
    (t.queue = [] ∧ (i = .openLink ∨ i = .closeLink ∨ i = .reset)) := by
  cases h with
  | enqueued hrow hopen => exact .inr (.inl ⟨_, _, _, _, hrow, hopen, rfl⟩)
  | resolved hi => exact .inr (.inr (.inl ⟨rfl, hi⟩))
  | opened hi => exact .inr (.inr (.inr ⟨rfl, .inl hi⟩))
  | disconnected hi => exact .inr (.inr (.inr ⟨rfl, .inr (.inl hi)⟩))
  | cleared hi => exact .inr (.inr (.inr ⟨rfl, .inr hi⟩))
  | _ => exact .inl rfl

/-- How `open` changes (R36). -/
theorem Effect.isOpen_cases (h : Effect i s t) :
    t.isOpen = s.isOpen ∨ (t.isOpen = true ∧ i = .openLink ∧ answer s = .ok) ∨
    (t.isOpen = false ∧ (i = .closeLink ∨ i = .reset)) := by
  cases h with
  | opened hi _ hok => exact .inr (.inl ⟨rfl, hi, hok⟩)
  | disconnected hi => exact .inr (.inr ⟨rfl, .inl hi⟩)
  | cleared hi => exact .inr (.inr ⟨rfl, hi⟩)
  | _ => exact .inl rfl

/-- How `fsm` changes (R36). -/
theorem Effect.fsm_cases (h : Effect i s t) :
    t.fsm = s.fsm ∨ (t.fsm = .await ∧ i = .dispatch ∧ answer s = .ok) ∨
    (t.fsm = .idle ∧ (i = .openLink ∨ i = .closeLink ∨ i = .reset ∨ ResolvesHead i s)) := by
  cases h with
  | transmitted hi _ _ _ hok => exact .inr (.inl ⟨rfl, hi, hok⟩)
  | opened hi => exact .inr (.inr ⟨rfl, .inl hi⟩)
  | disconnected hi => exact .inr (.inr ⟨rfl, .inr (.inl hi)⟩)
  | cleared hi => exact .inr (.inr ⟨rfl, .inr (hi.imp_right .inl)⟩)
  | resolved hi => exact .inr (.inr ⟨rfl, .inr (.inr (.inr hi))⟩)
  | _ => exact .inl rfl

/-- No effect reaches the parameters, the inbox and the side signals (R37). -/
theorem Effect.keeps_inputs (h : Effect i s t) :
    t.cfg = s.cfg ∧ t.inbox = s.inbox ∧ t.portCfg = s.portCfg ∧ t.draw = s.draw := by
  cases h <;> exact ⟨rfl, rfl, rfl, rfl⟩

/-- Only OPEN and CLOSE call the transport (R6). -/
theorem Effect.xctl_cases (h : Effect i s t) : t.xctl = s.xctl ∨ i = .openLink ∨ i = .closeLink := by
  cases h with
  | openFailed hi | opened hi => exact .inr (.inl hi)
  | disconnected hi => exact .inr (.inr hi)
  | _ => exact .inl rfl

/-- Only OPEN and DISPATCH draw a verdict (R10). -/
theorem Effect.drawn_cases (h : Effect i s t) : t.drawn = s.drawn ∨ i = .openLink ∨ i = .dispatch := by
  cases h with
  | openFailed hi | opened hi => exact .inr (.inl hi)
  | writeFailed hi | transmitted hi => exact .inr (.inr hi)
  | _ => exact .inl rfl

/-- Only a request is held (R123). -/
theorem Effect.held_cases (h : Effect i s t) : t.held = s.held ∨ requestRow i ≠ none := by
  cases h with
  | held hrow => exact .inr (by simp [hrow])
  | _ => exact .inl rfl

end

/-- Settles O34: by the effects on TXLOG and on the queue of a block that leaves AWAIT; they need no invariant. -/
theorem atMostOneRequestInFlight : Obligations.AtMostOneRequestInFlight := by
  intro i s t _ h
  exact ⟨(exec_effect h).txlog_cases, (exec_effect h).queue_of_await_idle⟩

/-- Settles O39: by the effects on the queue. -/
theorem queueChangesOnlyByItsRules : Obligations.QueueChangesOnlyByItsRules := by
  intro i s t h
  exact (exec_effect h).queue_cases

/-- Settles O40: by the effects on `open` and `fsm`. -/
theorem flagsChangeOnlyByTheirRules : Obligations.FlagsChangeOnlyByTheirRules := by
  intro i s t h
  have hopen := (exec_effect h).isOpen_cases
  have hfsm := (exec_effect h).fsm_cases
  refine ⟨fun hs ht => ?_, fun hs ht => ?_, fun hs ht => ?_, fun hs ht => ?_⟩
  · simpa [hs, ht] using hopen
  · simpa [hs, ht] using hopen
  · simpa [hs, ht] using hfsm
  · simp only [hs, ht, reduceCtorEq, false_and, false_or, true_and, ResolvesHead, ReceivesBytes] at hfsm
    simpa only [or_assoc, or_comm (a := ∃ kind fatal, i = .lineError kind fatal)] using hfsm

/-- Settles O41: by the effects on each field outside the block. -/
theorem execKeepsEnvironment : Obligations.ExecKeepsEnvironment := by
  intro i s t h
  have he := exec_effect h
  obtain ⟨hcfg, hinbox, hport, hdraw⟩ := he.keeps_inputs
  exact ⟨hcfg, hinbox, hport, hdraw, he.xctl_cases, he.drawn_cases, he.held_cases⟩

/-! ### The histories are not read -/

/-- The state with other histories. -/
def State.withHistories (o : List Record) (x : List TxEntry) (s : State) : State := { s with out := o, txlog := x }

/-- Whatever the histories of `s`, the operation makes the same state of it but for them, and appends the same entries. -/
def AppendsHistories (f : State → State) (s : State) : Prop :=
  ∃ (rs : List Record) (xs : List TxEntry), ∀ (o : List Record) (x : List TxEntry),
    f (s.withHistories o x) = (f s).withHistories (o ++ rs) (x ++ xs)

section
variable (o : List Record) (x : List TxEntry) (s : State)

@[simp] theorem withHistories_isOpen : (s.withHistories o x).isOpen = s.isOpen := rfl
@[simp] theorem withHistories_fsm : (s.withHistories o x).fsm = s.fsm := rfl
@[simp] theorem withHistories_queue : (s.withHistories o x).queue = s.queue := rfl
@[simp] theorem withHistories_rxbuf : (s.withHistories o x).rxbuf = s.rxbuf := rfl
@[simp] theorem withHistories_tmrCnt : (s.withHistories o x).tmrCnt = s.tmrCnt := rfl
@[simp] theorem withHistories_cfg : (s.withHistories o x).cfg = s.cfg := rfl
@[simp] theorem answer_withHistories : answer (s.withHistories o x) = answer s := rfl
@[simp] theorem tmrRunning_withHistories : tmrRunning (s.withHistories o x) = tmrRunning s := rfl
@[simp] theorem queueFull_withHistories : queueFull (s.withHistories o x) = queueFull s := rfl
@[simp] theorem canDispatch_withHistories : canDispatch (s.withHistories o x) = canDispatch s := rfl
@[simp] theorem headTag_withHistories : headTag (s.withHistories o x) = headTag s := rfl

/-! Each named operation under other histories. -/

@[simp] theorem enqueue_withHistories (c : Command) (p : Half) :
    enqueue c p (s.withHistories o x) = (enqueue c p s).withHistories o x := rfl
@[simp] theorem hold_withHistories (c : Command) (p : Half) :
    hold c p (s.withHistories o x) = (hold c p s).withHistories o x := rfl
@[simp] theorem appendBuf_withHistories (bs : List Byte) :
    appendBuf bs (s.withHistories o x) = (appendBuf bs s).withHistories o x := rfl
@[simp] theorem setOpen_withHistories (b : Bool) :
    setOpen b (s.withHistories o x) = (setOpen b s).withHistories o x := rfl
@[simp] theorem setFsm_withHistories (f : Fsm) :
    setFsm f (s.withHistories o x) = (setFsm f s).withHistories o x := rfl
@[simp] theorem setTimer_withHistories (n : Nat) :
    setTimer n (s.withHistories o x) = (setTimer n s).withHistories o x := rfl
@[simp] theorem emit_withHistories (r : Record) :
    emit r (s.withHistories o x) = (emit r s).withHistories (o ++ [r]) x := rfl
@[simp] theorem send_withHistories (f : List Byte) :
    send f (s.withHistories o x) = (send f s).withHistories o (x ++ [⟨f, answer s⟩]) := rfl
@[simp] theorem xopen_withHistories : xopen (s.withHistories o x) = (xopen s).withHistories o x := rfl
@[simp] theorem xclose_withHistories : xclose (s.withHistories o x) = (xclose s).withHistories o x := rfl
@[simp] theorem clearLink_withHistories : clearLink (s.withHistories o x) = (clearLink s).withHistories o x := rfl
@[simp] theorem resolveHead_withHistories :
    resolveHead (s.withHistories o x) = (resolveHead s).withHistories o x := rfl
@[simp] theorem raiseError_withHistories (k : ErrorKind) (c : Command) (d : Byte) :
    raiseError k c d (s.withHistories o x) =
      (raiseError k c d s).withHistories (o ++ [.nError k (cmdTag s.cfg.cmdCode c) d]) x := rfl
@[simp] theorem takeError_withHistories (k : ErrorKind) (d : Byte) :
    takeError k d (s.withHistories o x) = (takeError k d s).withHistories (o ++ [.nError k (headTag s) d]) x := rfl

end

section
variable {f : State → State} {s : State}

/-- An operation that appends records and no frame. -/
theorem appendsHistories_of_records (rs : List Record)
    (h : ∀ o x, f (s.withHistories o x) = (f s).withHistories (o ++ rs) x) : AppendsHistories f s :=
  ⟨rs, [], by simpa using h⟩

/-- An operation that appends nothing. -/
theorem appendsHistories_of_silent (h : ∀ o x, f (s.withHistories o x) = (f s).withHistories o x) :
    AppendsHistories f s :=
  appendsHistories_of_records [] (by simpa using h)

end

section
variable (s : State)

theorem connect_appendsHistories : AppendsHistories connect s := by
  refine appendsHistories_of_silent fun o x => ?_
  cases ho : s.isOpen
  · cases ha : answer s
    · simp [connect, ho, ha]
    · simp [connect, ho, ha]
  · simp [connect, ho]

theorem disconnect_appendsHistories : AppendsHistories disconnect s := by
  refine appendsHistories_of_silent fun o x => ?_
  cases ho : s.isOpen
  · simp [disconnect, ho]
  · simp [disconnect, ho]

theorem request_appendsHistories (c : Command) (p : Half) : AppendsHistories (request c p) s := by
  cases ho : s.isOpen
  · exact appendsHistories_of_records [.nError .notOpen (cmdTag s.cfg.cmdCode c) 0#8] fun o x => by simp [request, ho]
  cases hf : queueFull s
  · exact appendsHistories_of_silent fun o x => by simp [request, ho, hf]
  · exact appendsHistories_of_silent fun o x => by simp [request, ho, hf]

theorem transmit_appendsHistories : AppendsHistories transmit s := by
  cases hg : canDispatch s
  · exact appendsHistories_of_silent fun o x => by simp [transmit, hg]
  · obtain ⟨-, -, hq⟩ := canDispatch_iff.1 hg
    obtain ⟨e, q, hq⟩ := List.exists_cons_of_ne_nil hq
    refine ⟨[], [⟨encodeFrame s.cfg.cmdCode e.cmd e.payload, answer s⟩], fun o x => ?_⟩
    cases ha : answer s
    · simp [transmit, hg, peekHead, hq, ha]
    · simp [transmit, hg, peekHead, hq, ha]

theorem resolveFrame_appendsHistories (buf d k : List Byte) : AppendsHistories (resolveFrame buf d k) s := by
  cases hv : verifyChecksum d k with
  | ok v =>
    exact appendsHistories_of_records [.nRawFrame buf, .nValue v (headTag s)] fun o x => by simp [resolveFrame, hv]
  | mismatch =>
    exact appendsHistories_of_records [.nRawFrame buf, .nError .checksumMismatch (headTag s) 0#8] fun o x => by
      simp [resolveFrame, hv]

theorem receive_appendsHistories (bs : List Byte) : AppendsHistories (receive bs) s := by
  cases hr : tmrRunning s
  · exact appendsHistories_of_silent fun o x => by simp [receive, hr]
  cases ht : tryDecode (s.rxbuf ++ bs) with
  | incomplete | invalidShape => exact appendsHistories_of_silent fun o x => by simp [receive, hr, ht]
  | frame d k =>
    obtain ⟨rs, xs, h⟩ := resolveFrame_appendsHistories s (s.rxbuf ++ bs) d k
    exact ⟨rs, xs, fun o x => by simp [receive, hr, ht, h]⟩

theorem tick_appendsHistories : AppendsHistories tick s := by
  cases hr : tmrRunning s
  · exact appendsHistories_of_silent fun o x => by simp [tick, hr]
  by_cases hz : s.tmrCnt - 1 = 0
  · exact appendsHistories_of_records [.nError .responseTimeout (headTag s) 0#8] fun o x => by simp [tick, hr, hz]
  · exact appendsHistories_of_silent fun o x => by simp [tick, hr, hz]

theorem lineFault_appendsHistories (detail : Byte) (fatal : Bool) : AppendsHistories (lineFault detail fatal) s := by
  cases fatal
  · exact appendsHistories_of_records [.nError .transportFault (headTag s) detail] fun o x => by simp [lineFault]
  · exact appendsHistories_of_records [.nError .transportFault (headTag s) detail, .nFatal detail] fun o x => by
      simp [lineFault]

/-- An instruction that runs such an operation appends to the histories and does not read them. -/
theorem exec_withHistories {i : Instr} {f : State → State} {s : State} (hi : ∀ u, exec i u = .next (f u))
    (hf : AppendsHistories f s) :
    ∃ rs xs, ∀ o x, exec i (s.withHistories o x) = .next ((f s).withHistories (o ++ rs) (x ++ xs)) := by
  obtain ⟨rs, xs, h⟩ := hf
  exact ⟨rs, xs, fun o x => by rw [hi, h]⟩

end

/-- Settles O36: each operation an instruction runs appends to the histories and does not read them. -/
theorem historiesAreOnlyAppended : Obligations.HistoriesAreOnlyAppended := by
  intro i s t h
  obtain ⟨rfl, rfl⟩ | ⟨rfl, rfl⟩ | ⟨rfl, rfl⟩ | ⟨opc, opnd, c, p, hrow, rfl⟩ | ⟨rfl, rfl⟩ |
    ⟨bs, rfl | ⟨d0, d1, d2, d3, k0, k1, rfl, rfl⟩, rfl⟩ | ⟨kind, fatal, rfl, rfl⟩ | ⟨rfl, rfl⟩ | ⟨rfl, rfl⟩ :=
    exec_cases h
  · exact exec_withHistories (fun _ => rfl) (connect_appendsHistories s)
  · exact exec_withHistories (fun _ => rfl) (disconnect_appendsHistories s)
  · exact exec_withHistories (f := fun u => emit (.rIsOpen u.isOpen) u) (fun _ => rfl)
      (appendsHistories_of_records [.rIsOpen s.isOpen] fun _ _ => rfl)
  · exact exec_withHistories (exec_request hrow) (request_appendsHistories s c p)
  · exact exec_withHistories (fun _ => rfl) (transmit_appendsHistories s)
  · exact exec_withHistories (fun _ => rfl) (receive_appendsHistories s bs)
  · exact exec_withHistories (fun _ => rfl) (receive_appendsHistories s _)
  · exact exec_withHistories (fun _ => rfl) (lineFault_appendsHistories s (faultDetail kind) fatal)
  · exact exec_withHistories (fun _ => rfl) (tick_appendsHistories s)
  · exact exec_withHistories (f := fun u => clearLink (setOpen false u)) (fun _ => rfl)
      (appendsHistories_of_silent fun _ _ => rfl)

/-! ### Reset -/

/-- Settles O8: the fields of `State.reset`. -/
theorem resetValuesOfStateElements : Obligations.ResetValuesOfStateElements :=
  ⟨rfl, rfl, rfl, rfl, rfl⟩

/-- The default parameters are legal (R7, R73). -/
theorem config_default_wellFormed : Config.default.WellFormed := by decide

/-- Settles O32: the closed, empty block with legal parameters has each clause. -/
theorem invariantHoldsAtReset : Obligations.InvariantHoldsAtReset where
  config := config_default_wellFormed
  closed _ := ⟨rfl, rfl, rfl, rfl⟩
  awaiting := nofun
  idle _ := ⟨rfl, rfl⟩
  noFrame := nofun
  commands := nofun
  depth := nofun
  heldOnlyIfFinite h := absurd rfl h
  heldAtMostOne := Nat.zero_le _

end Sys2Proof.Machine

/-! PROOFS. The statement of the family 20_memory: the store of R56, the length saturating at 9 and the first 8 bytes, is
enough. Up to 8 bytes it is the buffer itself; a longer buffer is past every frame and every prefix of one, and stays so. -/

namespace Sys2Proof.Machine

/-- No buffer longer than a frame is well-shaped or a prefix of a well-shaped one (R108). -/
theorem tryDecode_of_eight_lt_length {b : List Byte} (h : 8 < b.length) : tryDecode b = .invalidShape := by
  have hshape : ¬ shapeOK b = true := fun hs => by have := shapeOK_length hs; omega
  have hprefix : prefixOK b = false := by
    have hlen : ¬ b.length < 8 := by omega
    simp [prefixOK, hlen]
  simp [tryDecode, hshape, hprefix]

/-- Buffers with one store are equal, or both are longer than a frame. -/
theorem eq_or_eight_lt_length_of_store_eq {b b' : List Byte} (hlen : min b.length 9 = min b'.length 9)
    (htake : b.take 8 = b'.take 8) : b = b' ∨ 8 < b.length ∧ 8 < b'.length := by
  by_cases hb : 8 < b.length
  · exact .inr ⟨hb, by omega⟩
  · have hle : b.length ≤ 8 := by omega
    have hle' : b'.length ≤ 8 := by omega
    rw [List.take_of_length_le hle, List.take_of_length_le hle'] at htake
    exact .inl htake

/-- Settles O31: the same store means the same buffer, or two buffers that are too long to be a frame ever after. -/
theorem saturatedStoreIsEnough : Obligations.SaturatedStoreIsEnough := by
  intro b b' hlen htake
  obtain rfl | ⟨hb, hb'⟩ := eq_or_eight_lt_length_of_store_eq hlen htake
  · exact ⟨rfl, .rfl, fun _ => rfl, fun _ => ⟨rfl, rfl⟩⟩
  refine ⟨?decoded, ?emptiness, ?frame, fun m => ⟨?length, ?bytes⟩⟩
  case decoded => rw [tryDecode_of_eight_lt_length hb, tryDecode_of_eight_lt_length hb']
  case emptiness =>
    exact iff_of_false (List.ne_nil_of_length_pos (by omega)) (List.ne_nil_of_length_pos (by omega))
  case frame =>
    intro hs
    have := shapeOK_length hs
    omega
  case length =>
    rw [List.length_append, List.length_append]
    omega
  case bytes =>
    rw [List.take_append_of_le_length hb.le, List.take_append_of_le_length hb'.le, htake]

end Sys2Proof.Machine

/-! PROOFS. The statements of the family 30_encoding: the decoder and the encoder are inverse to each other, reserved words are
refused by name, malformed bytes of the line are received, and the layouts of words and frames. -/

namespace Sys2Proof

/-! ### The bits of a field -/

/-- The bits above bit 0 are zero exactly in 0 and 1 (the must-be-zero bits of R76, R80). -/
theorem upper_bits_zero_iff {w : Nat} (x : BitVec (w + 1)) : x.extractLsb' 1 w = 0#w ↔ x.toNat ≤ 1 := by
  have hx : x.toNat / 2 < 2 ^ w := by have := x.isLt; omega
  rw [← BitVec.toNat_inj, BitVec.extractLsb'_toNat, Nat.shiftRight_eq_div_pow, pow_one, Nat.mod_eq_of_lt hx,
    BitVec.toNat_ofNat, Nat.zero_mod]
  omega

/-- A word at most 1 is 0 or 1. -/
theorem bitVec_eq_zero_or_one {w : Nat} {x : BitVec w} (h : x.toNat ≤ 1) : x = 0#w ∨ x = 1#w := by
  have hx : x = BitVec.ofNat w x.toNat := by simp
  obtain h0 | h1 := Nat.le_one_iff_eq_zero_or_eq_one.1 h
  · exact .inl (by rwa [h0] at hx)
  · exact .inr (by rwa [h1] at hx)

/-- A byte at most 1 is its bit 0 as a byte. -/
theorem bitByte_of_le_one {b : Byte} (h : b.toNat ≤ 1) : bitByte (b.getLsbD 0) = b := by
  obtain rfl | rfl := bitVec_eq_zero_or_one h <;> rfl

/-- A field at most 1 has its bit 0 as low byte, and a zero high byte (R76). -/
theorem bytes_of_le_one {x : Half} (h : x.toNat ≤ 1) : loByte x = bitByte (x.getLsbD 0) ∧ hiByte x = 0#8 := by
  obtain rfl | rfl := bitVec_eq_zero_or_one h <;> exact ⟨rfl, rfl⟩

/-- A field is at most 1 exactly when its low byte is and its high byte is zero (R79). -/
theorem halfOf_le_one_iff (hi lo : Byte) : (halfOf hi lo).toNat ≤ 1 ↔ lo.toNat ≤ 1 ∧ hi = 0#8 := by
  rw [halfOf_toNat, ← BitVec.toNat_inj, BitVec.toNat_ofNat]
  omega

/-- Bit 7 of a LINE_ERROR's byte is its fatal flag (R78). -/
theorem fatal_of_errorByte (fatal : Bool) (kind : BitVec 7) : (BitVec.ofBool fatal ++ kind).getLsbD 7 = fatal := by
  refine BitVec.getLsbD_append.trans ?_
  simp

/-- A LINE_ERROR's byte is put together from its fatal flag and its kind (R78). -/
theorem errorByte_of_fields (b : Byte) : BitVec.ofBool (b.getLsbD 7) ++ b.extractLsb' 0 7 = b := by
  apply BitVec.eq_of_getLsbD_eq
  intro k hk
  refine BitVec.getLsbD_append.trans ?_
  by_cases h : k < 7
  · simp [h]
  · obtain rfl : k = 7 := by omega
    simp

/-! ### Each format's decoder on the words of the encoder -/

/-- The frame Encode builds with the table of R72 is the word of its row. -/
theorem encode_wireInstr (c : Command) (p : Half) :
    encode (wireInstr c p) = Machine.encodeFrame CmdCodes.default c p := by
  cases c <;> rfl

@[simp] theorem wireInstr_wellFormed (c : Command) (p : Half) : (wireInstr c p).wellFormed = true := by
  cases c <;> rfl

/-- A chunk is read back from its length and bytes (R78). -/
theorem decodeChunk_append {bytes : List Byte} (rest : List Byte) (h : bytes ≠ []) :
    decodeChunk bytes.length (bytes ++ rest) = .word (.rxChunk bytes) rest := by
  simp [decodeChunk, h]

/-- A request frame of the table of R72 is read back from its ten bytes (R70). -/
theorem decodeRequest_encodeFrame (c : Command) (p : Half) (rest : List Byte) :
    decodeRequest (Machine.encodeFrame CmdCodes.default c p ++ rest) = .word (wireInstr c p) rest := by
  simp [decodeRequest, decodeFrame_encodeFrame]

/-- Settles O2: row by row, by what the decoder of the row's format does with its bytes. -/
theorem decodeOfEncodeIsIdentity : Obligations.DecodeOfEncodeIsIdentity := by
  intro i rest hw
  cases i
  case setTemperature payload => simp [Instr.port, encode, wordBytes, decode, decodeHost, decodeHostFields]
  case setPowerStatus b => cases b <;> rfl
  case rxChunk bytes =>
    simp only [Instr.wellFormed, Bool.and_eq_true, decide_eq_true_eq] at hw
    obtain ⟨hpos, hle⟩ := hw
    have hlen : (BitVec.ofNat 8 bytes.length).toNat = bytes.length := by
      rw [BitVec.toNat_ofNat]
      omega
    show decodeChunk (BitVec.ofNat 8 bytes.length).toNat (bytes ++ rest) = _
    rw [hlen, decodeChunk_append rest (List.ne_nil_of_length_pos hpos)]
  case lineError kind fatal =>
    show Decoded.word (.lineError ((BitVec.ofBool fatal ++ kind).extractLsb' 0 7) _) rest = _
    rw [BitVec.extractLsb'_append_eq_right, fatal_of_errorByte]
  case nValue cmd value => simp [Instr.port, encode, decode, decodeRecord, decodeRecordFields]
  case nRawFrame frame =>
    have hlen : frame.length = 8 := by simpa [Instr.wellFormed] using hw
    simp [Instr.port, encode, decode, decodeRecord, decodeRecordFields, hlen]
  case rIsOpen b => cases b <;> rfl
  case wireNone payload => exact decodeRequest_encodeFrame .none payload rest
  case wireGetTemp payload => exact decodeRequest_encodeFrame .getTemp payload rest
  case wireGetOutput payload => exact decodeRequest_encodeFrame .getOutput payload rest
  case wireGetSensorStatus payload => exact decodeRequest_encodeFrame .getSensorStatus payload rest
  case wireGetSetTemp payload => exact decodeRequest_encodeFrame .getSetTemp payload rest
  case wireGetPowerStatus payload => exact decodeRequest_encodeFrame .getPowerStatus payload rest
  case wireSetTemp payload => exact decodeRequest_encodeFrame .setTemp payload rest
  case wireSetPowerStatus payload => exact decodeRequest_encodeFrame .setPowerStatus payload rest
  case wireResponse d0 d1 d2 d3 k0 k1 =>
    have hhex : [d0, d1, d2, d3, k0, k1].all Machine.isHex = true := hw
    simp [Instr.port, encode, decode, decodeResponse, hhex]
  -- The other rows have fixed words, or their operands are whole bytes.
  all_goals rfl

/-! ### What each format's decoder accepts

One lemma per function of the decoder, a case per branch that answers an instruction: it is well-formed, and the bytes read are
its words (R79, R81). -/

theorem decodeHostFields_spells {opc : Byte} {opnd : Half} {rest rest' : List Byte} {i : Instr}
    (h : decodeHostFields opc opnd rest = .word i rest') :
    i.wellFormed = true ∧ opc :: loByte opnd :: hiByte opnd :: rest = encode i ++ rest' := by
  unfold decodeHostFields at h
  split at h
  case isTrue hopc =>
    cases h
    rw [hopc]
    exact ⟨rfl, rfl⟩
  split at h
  case isTrue hopc =>
    split at h <;> cases h
    case isTrue.refl hzero =>
      obtain ⟨hlo, hhi⟩ := bytes_of_le_one ((upper_bits_zero_iff opnd).1 hzero)
      rw [hlo, hhi, hopc]
      exact ⟨rfl, rfl⟩
  split at h
  · rename_i row hrow
    obtain ⟨hmem, rfl⟩ := bareHostOps_find hrow
    obtain ⟨hwf, -, henc⟩ := bareHostOps_row row hmem
    split at h <;> cases h
    case isTrue.refl hzero =>
      rw [henc, hzero]
      exact ⟨hwf, rfl⟩
  · cases h

theorem decodeHost_spells {bs rest : List Byte} {i : Instr} (h : decodeHost bs = .word i rest) :
    i.wellFormed = true ∧ bs = encode i ++ rest := by
  unfold decodeHost at h
  split at h
  · simpa using decodeHostFields_spells h
  · cases h

theorem decodeChunk_spells {n : Byte} {bs rest : List Byte} {i : Instr} (h : decodeChunk n.toNat bs = .word i rest) :
    i.wellFormed = true ∧ 0x40#8 :: n :: 0#8 :: bs = encode i ++ rest := by
  unfold decodeChunk at h
  split at h
  · cases h
  split at h <;> cases h
  case isFalse.isFalse.refl hpos hle =>
    have hn := n.isLt
    have hlen : (bs.take n.toNat).length = n.toNat := by
      rw [List.length_take]
      omega
    rw [Instr.wellFormed, encode, hlen]
    refine ⟨?_, by simp⟩
    simp only [Bool.and_eq_true, decide_eq_true_eq]
    omega

theorem decodeEventFields_spells {evc lo hi : Byte} {rest rest' : List Byte} {i : Instr}
    (h : decodeEventFields evc lo hi rest = .word i rest') :
    i.wellFormed = true ∧ evc :: lo :: hi :: rest = encode i ++ rest' := by
  unfold decodeEventFields at h
  split at h
  case isTrue hevc =>
    split at h
    case isTrue hhi =>
      rw [hevc, hhi]
      exact decodeChunk_spells h
    case isFalse => cases h
  split at h
  case isTrue hevc =>
    split at h <;> cases h
    case isTrue.refl hhi =>
      rw [encode, errorByte_of_fields, hevc, hhi]
      exact ⟨rfl, rfl⟩
  split at h
  case isTrue hevc =>
    split at h <;> cases h
    case isTrue.refl hzero =>
      obtain ⟨hhi, hlo⟩ := (halfOf_eq_zero hi lo).1 hzero
      rw [hevc, hhi, hlo]
      exact ⟨rfl, rfl⟩
  case isFalse => cases h

theorem decodeEvent_spells {bs rest : List Byte} {i : Instr} (h : decodeEvent bs = .word i rest) :
    i.wellFormed = true ∧ bs = encode i ++ rest := by
  unfold decodeEvent at h
  split at h
  · exact decodeEventFields_spells h
  · cases h

theorem decodeReset_spells {bs rest : List Byte} {i : Instr} (h : decodeReset bs = .word i rest) :
    i.wellFormed = true ∧ bs = encode i ++ rest := by
  unfold decodeReset at h
  split at h
  · split at h <;> cases h
    rename_i hb
    rw [hb]
    exact ⟨rfl, rfl⟩
  · cases h

theorem decodeRecordFields_spells {tag b1 b2 b3 : Byte} {rest rest' : List Byte} {i : Instr}
    (h : decodeRecordFields tag b1 b2 b3 rest = .word i rest') :
    i.wellFormed = true ∧ tag :: b1 :: b2 :: b3 :: rest = encode i ++ rest' := by
  unfold decodeRecordFields at h
  split at h
  case isTrue htag =>
    cases h
    simp [Instr.wellFormed, encode, htag]
  split at h
  case isTrue htag =>
    cases h
    simp [Instr.wellFormed, encode, htag]
  split at h
  case isTrue htag =>
    split at h
    case isTrue hzero =>
      obtain ⟨rfl, rfl, rfl⟩ := hzero
      split at h <;> cases h
      case isFalse.refl hlen =>
        have htake : (rest.take 8).length = 8 := by
          rw [List.length_take]
          omega
        simp [Instr.wellFormed, encode, htag, htake]
    case isFalse => cases h
  split at h
  case isTrue htag =>
    split at h <;> cases h
    case isTrue.refl hzero =>
      obtain ⟨rfl, rfl⟩ := hzero
      simp [Instr.wellFormed, encode, htag]
  split at h
  case isTrue htag =>
    split at h <;> cases h
    case isTrue.refl hzero =>
      obtain ⟨h1, rfl, rfl⟩ := hzero
      rw [encode, bitByte_of_le_one ((upper_bits_zero_iff b1).1 h1), htag]
      exact ⟨rfl, rfl⟩
  case isFalse => cases h

theorem decodeRecord_spells {bs rest : List Byte} {i : Instr} (h : decodeRecord bs = .word i rest) :
    i.wellFormed = true ∧ bs = encode i ++ rest := by
  unfold decodeRecord at h
  split at h
  · exact decodeRecordFields_spells h
  · cases h

theorem decodeRequest_spells {bs rest : List Byte} {i : Instr} (h : decodeRequest bs = .word i rest) :
    i.wellFormed = true ∧ bs = encode i ++ rest := by
  unfold decodeRequest at h
  split at h
  · cases h
  split at h
  · rename_i hf
    cases h
    obtain ⟨c, p, rfl, hframe⟩ := encodeFrame_of_decodeFrame hf
    refine ⟨wireInstr_wellFormed c p, ?_⟩
    rw [encode_wireInstr, ← hframe, List.take_append_drop]
  · cases h

theorem decodeResponse_spells {bs rest : List Byte} {i : Instr} (h : decodeResponse bs = .word i rest) :
    i.wellFormed = true ∧ bs = encode i ++ rest := by
  unfold decodeResponse at h
  split at h
  · split at h <;> cases h
    rename_i hshape
    obtain ⟨hs, he, hhex⟩ := hshape
    rw [hs, he]
    exact ⟨hhex, rfl⟩
  · cases h

/-- Settles O3: format by format, the branch that answers an instruction has read that instruction's own bytes. -/
theorem decodedBytesAreTheEncoding : Obligations.DecodedBytesAreTheEncoding := by
  intro p bs i rest h
  have hspells : i.wellFormed = true ∧ bs = encode i ++ rest := by
    cases p
    case hostOp => exact decodeHost_spells h
    case rxEv => exact decodeEvent_spells h
    case rst => exact decodeReset_spells h
    case hostOut => exact decodeRecord_spells h
    case tx => exact decodeRequest_spells h
    case line => exact decodeResponse_spells h
  exact ⟨hspells.1, decode_port h, hspells.2⟩

end Sys2Proof

namespace Sys2Proof

/-! ### Words the decoder refuses -/

/-- The table of bare host operations finds each of its rows, and holds neither SET_TEMPERATURE nor SET_POWER_STATUS (R75). -/
theorem bareHostOps_find_self : ∀ row ∈ bareHostOps,
    row.1 ≠ 0x10#8 ∧ row.1 ≠ 0x15#8 ∧ (bareHostOps.find? fun r => r.1 == row.1) = some row := by
  decide

/-- A host operation with no operand is read from its `opc` with a zero `opnd`, and from no other (R75, R76). -/
theorem decodeHostFields_bare {row : Byte × Instr} (h : row ∈ bareHostOps) (opnd : Half) (rest : List Byte) :
    decodeHostFields row.1 opnd rest =
      if opnd = 0#16 then .word row.2 rest else .refused (.operandNotZero row.1) := by
  obtain ⟨h10, h15, hfind⟩ := bareHostOps_find_self row h
  simp [decodeHostFields, h10, h15, hfind]

/-- An `opc` outside R75 is refused by name (R81). -/
theorem decodeHostFields_reserved {opc : Byte} (opnd : Half) (rest : List Byte) (h10 : opc ≠ 0x10#8)
    (h15 : opc ≠ 0x15#8) (hbare : ∀ row ∈ bareHostOps, row.1 ≠ opc) :
    decodeHostFields opc opnd rest = .refused (.reservedOpc opc) := by
  have hfind : (bareHostOps.find? fun row => row.1 == opc) = none := by simpa [List.find?_eq_none] using hbare
  simp [decodeHostFields, h10, h15, hfind]

/-- A SET_POWER_STATUS operand above 1 has a must-be-zero bit set (R76). -/
theorem decodeHostFields_setPowerStatus_refused {opnd : Half} (rest : List Byte) (h : ¬ opnd.toNat ≤ 1) :
    decodeHostFields 0x15#8 opnd rest = .refused (.operandNotZero 0x15#8) := by
  rw [← upper_bits_zero_iff] at h
  simp [decodeHostFields, h]

/-- An `evc` outside R78 is refused by name (R81). -/
theorem decodeEventFields_reserved {evc : Byte} (lo hi : Byte) (rest : List Byte)
    (h : evc ∉ [0x40#8, 0x41#8, 0x42#8]) : decodeEventFields evc lo hi rest = .refused (.reservedEvc evc) := by
  simp only [List.mem_cons, List.not_mem_nil, or_false, not_or] at h
  obtain ⟨h40, h41, h42⟩ := h
  simp [decodeEventFields, h40, h41, h42]

/-- TIME_TICK with a nonzero `arg` is refused by name (R78). -/
theorem decodeEventFields_timeTick_refused {lo hi : Byte} (rest : List Byte) (h : ¬(hi = 0#8 ∧ lo = 0#8)) :
    decodeEventFields 0x42#8 lo hi rest = .refused (.argNotZero 0x42#8) := by
  rw [← halfOf_eq_zero] at h
  simp [decodeEventFields, h]

/-- The high byte of every event's `arg` must be zero (R78). -/
theorem decodeEventFields_hi_refused {evc hi : Byte} (lo : Byte) (rest : List Byte)
    (hevc : evc ∈ [0x40#8, 0x41#8, 0x42#8]) (h : hi ≠ 0#8) :
    decodeEventFields evc lo hi rest = .refused (.argNotZero evc) := by
  simp only [List.mem_cons, List.not_mem_nil, or_false] at hevc
  obtain rfl | rfl | rfl := hevc
  · simp [decodeEventFields, h]
  · simp [decodeEventFields, h]
  · exact decodeEventFields_timeTick_refused rest fun hzero => h hzero.1

end Sys2Proof

namespace Sys2Proof.Machine

/-- An input is refused by the decoder's name, unless it holds bytes of `line` (R81, R82). -/
theorem readInput_refused {inp : Input} {e : DecodeError} (hp : inp.port ≠ .line ∨ inp.bytes = [])
    (h : decode inp.port inp.bytes = .refused e) : readInput inp = .refused e := by
  by_cases hline : inp.port = .line
  · have hnil := hp.resolve_left fun hne => hne hline
    rw [hline, hnil] at h
    cases h
    simp [readInput, rawChunk, hline, hnil, decode, decodeResponse]
  · exact readInput_of_refused h hline

/-- Bytes of `line` that are no response frame are read as a chunk of the first 255 of them (R82, log 11). -/
theorem readInput_line {inp : Input} {e : DecodeError} (hp : inp.port = .line) (hb : inp.bytes ≠ [])
    (h : decode inp.port inp.bytes = .refused e) :
    readInput inp = .word (.rxChunk (inp.bytes.take 255)) (inp.bytes.drop 255) := by
  simp only [readInput, h]
  simp [rawChunk, hp, hb]

/-- A step whose next input is refused is refused with that name (R11). -/
theorem step_of_refused {s : State} {passed later : List Input} {inp : Input} {e : DecodeError}
    (hn : NextInput s passed inp later) (hf : heldReady s = false ∨ inp.heldFirst = false)
    (hr : readInput inp = .refused e) : step s = .refused (.reservedWord e) := by
  simp [step, fetch_of_next hn hf, hr]

/-- Settles O4: field by field of formats H and E; a refused word is what the step reads. -/
theorem reservedWordsRefusedByName : Obligations.ReservedWordsRefusedByName := by
  refine ⟨?opc, ?operand, ?power, ?evc, ?arg, ?tick, fun _ => rfl, ?refusedStep⟩
  case opc =>
    intro opc lo hi rest hopc
    have hbare : ∀ row ∈ bareHostOps, row.1 ∈
        [0x01#8, 0x02#8, 0x03#8, 0x10#8, 0x11#8, 0x12#8, 0x13#8, 0x14#8, 0x15#8, 0x16#8, 0x20#8] := by decide
    refine decodeHostFields_reserved _ rest ?_ ?_ fun row hrow heq => hopc (heq ▸ hbare row hrow)
    · rintro rfl
      exact hopc (by decide)
    · rintro rfl
      exact hopc (by decide)
  case operand =>
    intro opc lo hi rest hopc hzero
    obtain ⟨row, hrow, rfl⟩ := List.mem_map.1 (show opc ∈ bareHostOps.map Prod.fst from hopc)
    refine (decodeHostFields_bare hrow _ rest).trans (if_neg fun h => hzero ?_)
    exact ((halfOf_eq_zero hi lo).1 h).symm
  case power =>
    intro lo hi rest h
    rw [← halfOf_le_one_iff] at h
    exact decodeHostFields_setPowerStatus_refused rest h
  case evc => exact fun evc lo hi rest h => decodeEventFields_reserved lo hi rest h
  case arg => exact fun evc lo hi rest hevc h => decodeEventFields_hi_refused lo rest hevc h
  case tick => exact fun lo rest h => decodeEventFields_timeTick_refused rest fun hzero => h hzero.2
  case refusedStep =>
    exact fun s passed inp later e hn hf hp hd => step_of_refused hn hf (readInput_refused hp hd)

/-! ### Received bytes -/

/-- In AWAIT, bytes that complete no frame are appended to the buffer (R153). -/
theorem receive_of_not_frame {s : State} {bs : List Byte} (hf : s.fsm = .await)
    (hs : shapeOK (s.rxbuf ++ bs) = false) : receive bs s = appendBuf bs s := by
  obtain ⟨hidle, -⟩ | ⟨-, -, h⟩ | ⟨d, k, -, hframe, -⟩ := receive_cases bs s
  · rw [hf] at hidle
    cases hidle
  · exact h
  · have := ((tryDecode_frame_iff _ d k).1 hframe).1
    rw [hs] at this
    cases this

/-- Taking an input changes nothing of the block. -/
theorem takeInput_block (c : Chosen) (rest : List Byte) (s : State) : (takeInput c rest s).block = s.block := rfl

/-- An RX_CHUNK runs as the receipt of its bytes (R150). -/
theorem exec_rxChunk (bs : List Byte) (s : State) : exec (.rxChunk bs) s = .next (receive bs s) := rfl

/-- Settles O46: the input is read as a chunk, which is discarded in IDLE and appended in AWAIT. -/
theorem malformedWireInputIsReceived : Obligations.MalformedWireInputIsReceived := by
  intro s passed inp later e hn hf hp hb hd
  have hstep := step_of_read hn hf (readInput_line hp hb hd)
  refine ⟨?chunk, fun hidle => ?idle, fun hawait hshape => ?await⟩
  case chunk =>
    rw [hstep, takeInput_eq]
    simp only [List.drop_eq_nil_iff]
  case idle =>
    refine ⟨_, hstep, ?_⟩
    rw [receive_of_idle _ (show (takeInput _ _ s).fsm = .idle from hidle), takeInput_block]
  case await =>
    refine ⟨_, hstep, ?_⟩
    rw [receive_of_not_frame (show (takeInput _ _ s).fsm = .await from hawait) hshape]
    rfl

/-- Settles O18: the first part is shorter than a frame and is kept; with the second the buffer is the whole frame. -/
theorem correctReplyReportsItsValue : Obligations.CorrectReplyReportsItsValue := by
  intro s e q v a b hf hbuf hq hab hb
  have hshape : shapeOK (s.rxbuf ++ a) = false := by
    rw [Bool.eq_false_iff]
    intro h
    have hlen := shapeOK_length h
    have htotal := congrArg List.length hab
    have hpos := List.length_pos_of_ne_nil hb
    rw [hbuf, List.nil_append] at hlen
    rw [responseFrame_eq, List.length_append] at htotal
    simp at htotal
    omega
  have hfirst : exec (.rxChunk a) s = .next (appendBuf a s) := by
    rw [exec_rxChunk, receive_of_not_frame hf hshape]
  have hwhole : (appendBuf a s).rxbuf ++ b = responseFrame v := by
    rw [appendBuf_rxbuf, hbuf, List.nil_append, hab]
  refine ⟨_, hfirst, _, exec_rxChunk .., ?_⟩
  rw [receive_block_of_ok (s := appendBuf a s) hf hq ((congrArg tryDecode hwhole).trans (tryDecode_responseFrame v))
    (verifyChecksum_hex4 v), hwhole]
  simp [State.block, hbuf]

/-! ### Layouts -/

/-- A decimal digit's character has the digit's value above `0` (R103). -/
theorem decDigit_toNat {n : Nat} (h : n < 10) : (BitVec.ofNat 8 (0x30 + n)).toNat = 0x30 + n := by
  rw [BitVec.toNat_ofNat]
  omega

/-- Settles O27: the digits are those of `dec2`, `hex4` and `hex2`, which read back as what they spell. -/
theorem requestFrameLayout : Obligations.RequestFrameLayout := by
  intro t c p
  refine ⟨_, _, _, _, _, _, _, _, rfl, ?tens, ?units, ?payload, ?checksum, ?range⟩
  case tens =>
    have := (cmdCode t c).isLt
    exact decDigit_toNat (by omega)
  case units => exact decDigit_toNat (Nat.mod_lt _ (by decide))
  case payload =>
    simp only [hexval_hexlc]
    exact nibbles_half p
  case checksum =>
    simp only [hexval_hexlc, nibbles_byte]
    simp [sum8, dec2, hex4, Nat.add_assoc]
  case range => simp [hexlc_range]

/-- Settles O1: each word is decoded by evaluation. -/
theorem specWordsDecode : Obligations.SpecWordsDecode := by
  unfold Obligations.SpecWordsDecode
  decide

/-- Settles O25: the meaning of each of the five rows is the refusal. -/
theorem outputRecordsAreNeverInputs : Obligations.OutputRecordsAreNeverInputs := fun _ =>
  ⟨fun _ _ => rfl, fun _ _ _ => rfl, fun _ => rfl, fun _ => rfl, fun _ => rfl⟩

/-- Settles O44: command by command. -/
theorem defaultCodeTable : Obligations.DefaultCodeTable := by
  refine ⟨fun c => ?_, fun c p hc => ?_⟩
  · cases c <;> rfl
  · cases c
    case none => exact absurd rfl hc
    all_goals rfl

/-- Settles O45: by the words of each record's row. -/
theorem recordWordsLayout : Obligations.RecordWordsLayout := by
  refine ⟨fun v c => ⟨loByte v, hiByte v, rfl, ?_⟩, fun c d => ⟨rfl, rfl, rfl, rfl⟩, fun _ => rfl, fun _ => rfl,
    fun _ => rfl⟩
  rw [← halfOf_toNat, halfOf_bytes]

end Sys2Proof.Machine

/-! PROOFS. The statements of the family 40_codec. A frame is `*`, six hex digits and `^`; a prefix of one is empty, or `*`
and at most six hex digits, and those are the buffers that more bytes can complete. -/

namespace Sys2Proof.Machine

/-! ### Frames and their prefixes -/

/-- The six digits of `shapeOK_iff` as one list. -/
theorem shapeOK_iff_digits (b : List Byte) :
    shapeOK b = true ↔ ∃ ds : List Byte, ds.length = 6 ∧ (∀ x ∈ ds, isHex x = true) ∧ b = star :: ds ++ [caret] := by
  rw [shapeOK_iff]
  constructor
  · rintro ⟨d0, d1, d2, d3, k0, k1, rfl, hhex⟩
    exact ⟨_, rfl, hhex, rfl⟩
  · rintro ⟨ds, hlen, hhex, rfl⟩
    match ds, hlen with
    | [d0, d1, d2, d3, k0, k1], _ => exact ⟨d0, d1, d2, d3, k0, k1, rfl, hhex⟩

/-- `prefixOK` holds of the empty buffer, and of `*` before at most six hex digits (R108). -/
theorem prefixOK_iff_digits (b : List Byte) :
    prefixOK b = true ↔ b = [] ∨ ∃ ds : List Byte, b = star :: ds ∧ ds.length ≤ 6 ∧ ∀ x ∈ ds, isHex x = true := by
  cases b with
  | nil => exact iff_of_true rfl (.inl rfl)
  | cons a t =>
    have htake (h : t.length ≤ 6) : t.take 6 = t := List.take_of_length_le h
    constructor
    · intro h
      simp only [prefixOK, Bool.and_eq_true, decide_eq_true_eq] at h
      obtain ⟨⟨hlen, hstar⟩, hhex⟩ := h
      have hle : t.length ≤ 6 := by simpa [Nat.lt_succ_iff] using hlen
      refine .inr ⟨t, ?_, hle, ?_⟩
      · simpa using hstar
      · simpa [htake hle] using hhex
    · rintro (h | ⟨ds, h, hle, hhex⟩)
      · cases h
      · cases h
        simpa [prefixOK, htake hle, Nat.lt_succ_iff, hle] using hhex

/-- A prefix of a frame is completed by `0` digits up to six, and `^`. -/
theorem exists_extension_of_prefixOK {b : List Byte} (h : prefixOK b = true) :
    ∃ m : List Byte, m ≠ [] ∧ shapeOK (b ++ m) = true := by
  obtain rfl | ⟨ds, rfl, hle, hhex⟩ := (prefixOK_iff_digits b).1 h
  · exact ⟨responseFrame 0, by decide, by decide⟩
  · refine ⟨List.replicate (6 - ds.length) 0x30#8 ++ [caret], by simp, ?_⟩
    refine (shapeOK_iff_digits _).2 ⟨ds ++ List.replicate (6 - ds.length) 0x30#8, ?length, ?digits, ?bytes⟩
    case length =>
      rw [List.length_append, List.length_replicate]
      omega
    case digits =>
      intro x hx
      obtain hx | hx := List.mem_append.1 hx
      · exact hhex x hx
      · rw [List.eq_of_mem_replicate hx]
        rfl
    case bytes => simp

/-- What is left of a frame without its last bytes is `prefixOK`. -/
theorem prefixOK_of_extension {b m : List Byte} (hm : m ≠ []) (h : shapeOK (b ++ m) = true) : prefixOK b = true := by
  obtain ⟨ds, hlen, hhex, hframe⟩ := (shapeOK_iff_digits _).1 h
  have hwhole : b <+: star :: ds ++ [caret] := ⟨m, hframe⟩
  obtain hall | hpre := List.prefix_concat_iff.1 hwhole
  · exact absurd (List.append_right_eq_self.1 (hframe.trans hall.symm)) hm
  obtain rfl | ⟨t, rfl, ht⟩ := List.prefix_cons_iff.1 hpre
  · rfl
  · exact (prefixOK_iff_digits _).2 (.inr ⟨t, rfl, hlen ▸ ht.length_le, fun x hx => hhex x (ht.subset hx)⟩)

/-- The buffers that can become a frame: a frame, with no more bytes, and a prefix of one. -/
theorem exists_shapeOK_append_iff (b : List Byte) :
    (∃ m : List Byte, shapeOK (b ++ m) = true) ↔ shapeOK b = true ∨ prefixOK b = true := by
  constructor
  · rintro ⟨m, h⟩
    by_cases hm : m = []
    · rw [hm, List.append_nil] at h
      exact .inl h
    · exact .inr (prefixOK_of_extension hm h)
  · rintro (h | h)
    · exact ⟨[], by rwa [List.append_nil]⟩
    · obtain ⟨m, -, hm⟩ := exists_extension_of_prefixOK h
      exact ⟨m, hm⟩

/-- A prefix is shorter than a frame. -/
theorem shapeOK_eq_false_of_prefixOK {b : List Byte} (h : prefixOK b = true) : shapeOK b = false := by
  rw [Bool.eq_false_iff]
  intro hs
  have hlen := shapeOK_length hs
  obtain rfl | ⟨ds, rfl, hle, -⟩ := (prefixOK_iff_digits b).1 h
  · cases hlen
  · rw [List.length_cons] at hlen
    omega

/-! ### The outcomes of TryDecode and VerifyChecksum -/

theorem tryDecode_incomplete_iff (b : List Byte) : tryDecode b = .incomplete ↔ prefixOK b = true := by
  unfold tryDecode
  by_cases hp : prefixOK b = true
  · simp [hp, shapeOK_eq_false_of_prefixOK hp]
  · split <;> simp [hp]

theorem tryDecode_invalidShape_iff (b : List Byte) :
    tryDecode b = .invalidShape ↔ ¬ (shapeOK b = true ∨ prefixOK b = true) := by
  unfold tryDecode
  by_cases hs : shapeOK b = true
  · simp [hs]
  · by_cases hp : prefixOK b = true <;> simp [hs, hp]

/-- A well-shaped buffer answers its own digits. -/
theorem tryDecode_frame_iff_digits (b d k : List Byte) :
    tryDecode b = .frame d k ↔ ∃ d0 d1 d2 d3 k0 k1 : Byte, b = [star, d0, d1, d2, d3, k0, k1, caret] ∧
      (∀ x ∈ [d0, d1, d2, d3, k0, k1], isHex x = true) ∧ d = [d0, d1, d2, d3] ∧ k = [k0, k1] := by
  rw [tryDecode_frame_iff, shapeOK_iff]
  constructor
  · rintro ⟨⟨d0, d1, d2, d3, k0, k1, rfl, hhex⟩, hd, hk⟩
    exact ⟨d0, d1, d2, d3, k0, k1, rfl, hhex, hd, hk⟩
  · rintro ⟨d0, d1, d2, d3, k0, k1, rfl, hhex, hd, hk⟩
    exact ⟨⟨d0, d1, d2, d3, k0, k1, rfl, hhex⟩, hd, hk⟩

/-- A digit's value is below 16 (R102). -/
theorem hexval_lt (b : Byte) : hexval b < 16 := by
  unfold hexval
  split_ifs <;> omega

theorem hexNat_four (d0 d1 d2 d3 : Byte) :
    hexNat [d0, d1, d2, d3] = 4096 * hexval d0 + 256 * hexval d1 + 16 * hexval d2 + hexval d3 := by
  simp only [hexNat, List.foldl_cons, List.foldl_nil]
  omega

theorem hexNat_two (k0 k1 : Byte) : hexNat [k0, k1] = 16 * hexval k0 + hexval k1 := by
  simp only [hexNat, List.foldl_cons, List.foldl_nil]
  omega

theorem sum8_four_toNat (d0 d1 d2 d3 : Byte) :
    (sum8 [d0, d1, d2, d3]).toNat = (d0.toNat + d1.toNat + d2.toNat + d3.toNat) % 256 := by
  simp [sum8, Nat.add_assoc]

/-! ### The statements -/

/-- Settles O28: Incomplete and InvalidShape are read off `prefixOK`, which holds exactly of the buffers with an extension
to a frame. -/
theorem tryDecodeClassifiesBuffers : Obligations.TryDecodeClassifiesBuffers := by
  refine ⟨tryDecode_frame_iff_digits, fun b => ?incomplete, fun b => ?invalid⟩
  case incomplete =>
    rw [tryDecode_incomplete_iff]
    exact ⟨exists_extension_of_prefixOK, fun ⟨_, hm, h⟩ => prefixOK_of_extension hm h⟩
  case invalid =>
    rw [tryDecode_invalidShape_iff, ← exists_shapeOK_append_iff]
    simp only [not_exists, Bool.not_eq_true]

/-- Settles O29: by lengths, for a frame has eight bytes and so has the frame inside it. -/
theorem frameMatchIsExact : Obligations.FrameMatchIsExact := by
  have hlength (b d k : List Byte) (h : tryDecode b = .frame d k) : b.length = 8 :=
    shapeOK_length ((tryDecode_frame_iff b d k).1 h).1
  refine ⟨hlength, fun f before after hf hextra d k h => ?_⟩
  have hinner := shapeOK_length hf
  have houter := hlength _ d k h
  rw [List.length_append, List.length_append] at houter
  have hpos : 0 < before.length ∨ 0 < after.length :=
    hextra.imp List.length_pos_of_ne_nil List.length_pos_of_ne_nil
  omega

/-- Settles O30: the sum and the digits are compared as numbers, and four digits fit in the 16-bit value. -/
theorem checksumVerification : Obligations.ChecksumVerification := by
  intro d0 d1 d2 d3 k0 k1 _
  unfold verifyChecksum
  rw [sum8_four_toNat, hexNat_two]
  refine ⟨fun heq => ⟨_, if_pos heq, ?_⟩, fun hne => if_neg hne⟩
  rw [BitVec.toNat_ofNat, hexNat_four]
  have h0 := hexval_lt d0
  have h1 := hexval_lt d1
  have h2 := hexval_lt d2
  have h3 := hexval_lt d3
  omega

end Sys2Proof.Machine

/-! PROOFS. The statements of the family 41_host_ops: what each host operation makes of the block under each condition its rule
names, a held request that is taken, and the rules by which records and frames go out. -/

namespace Sys2Proof.Machine

/-! ### The meanings of the host operations -/

/-- OPEN runs the rule of R120. -/
theorem exec_openLink (s : State) : exec .openLink s = .next (connect s) := rfl

/-- CLOSE runs the rule of R121. -/
theorem exec_closeLink (s : State) : exec .closeLink s = .next (disconnect s) := rfl

/-- DISPATCH runs the rule of R131. -/
theorem exec_dispatch (s : State) : exec .dispatch s = .next (transmit s) := rfl

/-! ### OPEN and CLOSE -/

section
variable {s : State}

theorem connect_of_open (ho : s.isOpen = true) : connect s = s := by
  simp [connect, ho]

theorem connect_of_ok (hc : s.isOpen = false) (ha : answer s = .ok) :
    connect s = clearLink (setOpen true (xopen s)) := by
  simp [connect, hc, ha]

theorem connect_of_fail (hc : s.isOpen = false) (ha : answer s = .fail) : connect s = xopen s := by
  simp [connect, hc, ha]

/-- While closed, OPEN asks the transport with the configuration unmodified, whatever the verdict (R120). -/
theorem connect_xctl_of_closed (hc : s.isOpen = false) :
    (connect s).xctl = s.xctl ++ [.xopen s.portCfg (answer s)] := by
  cases ha : answer s with
  | ok => simp [connect_of_ok hc ha, ha]
  | fail => simp [connect_of_fail hc ha, ha]

/-- CLOSE leaves the closed, cleared block, open before or not (R121). -/
theorem disconnect_block (s : State) : (disconnect s).block = s.block.cleared := by
  obtain ⟨-, h⟩ | ⟨-, h⟩ := disconnect_cases s
  · rw [h]; rfl
  · rw [h]; rfl

/-- CLOSE calls the transport exactly when the link was open (R121). -/
theorem disconnect_xctl (s : State) :
    (disconnect s).xctl = if s.isOpen = true then s.xctl ++ [.xclose] else s.xctl := by
  obtain ⟨ho, h⟩ | ⟨hc, h⟩ := disconnect_cases s
  · simp [h, ho]
  · simp [h, hc]

end

/-- Settles O10: by the verdict, where the link is closed. -/
theorem openFollowsTheVerdict : Obligations.OpenFollowsTheVerdict := by
  refine ⟨rfl, fun s ho => ?whileOpen, fun s hc ha => ⟨_, exec_openLink s, ?ok⟩,
    fun s hc ha => ⟨_, exec_openLink s, ?fail⟩, fun s t hc h => ?call⟩
  case whileOpen => rw [exec_openLink, connect_of_open ho]
  case ok => rw [connect_of_ok hc ha]; rfl
  case fail => rw [connect_of_fail hc ha]; rfl
  case call =>
    cases h
    exact connect_xctl_of_closed hc

/-- Settles O11: by the block and the transport calls that CLOSE leaves. -/
theorem closeDiscardsEverything : Obligations.CloseDiscardsEverything := by
  refine ⟨rfl, fun s => ⟨_, exec_closeLink s, disconnect_block s⟩, fun s t h => ?_⟩
  cases h
  exact disconnect_xctl s

/-- Settles O12: the meaning of IS_OPEN, and the words of its record, by evaluation. -/
theorem isOpenReportsTheFlag : Obligations.IsOpenReportsTheFlag :=
  ⟨rfl, fun _ => ⟨_, rfl, rfl⟩, rfl, rfl⟩

/-! ### Requests -/

/-- While closed a request reports NotOpen (R123). -/
theorem request_of_closed {c : Command} {p : Half} {s : State} (hc : s.isOpen = false) :
    request c p s = raiseError .notOpen c 0#8 s := by
  simp [request, hc]

/-- On an open link with room a request is enqueued (R123). -/
theorem request_of_room {c : Command} {p : Half} {s : State} (ho : s.isOpen = true) (hroom : queueFull s = false) :
    request c p s = enqueue c p s := by
  simp [request, ho, hroom]

/-- A request's word is the operation code and the operand of its row (R75, R76). -/
theorem encode_of_requestRow {i : Instr} {opc : Byte} {opnd : Half} {c : Command} {p : Half}
    (h : requestRow i = some (opc, opnd, c, p)) : encode i = [opc, loByte opnd, hiByte opnd] := by
  cases i
  case setPowerStatus b =>
    cases h
    cases b <;> rfl
  all_goals cases h <;> rfl

/-- Settles O13: by the three cases of `Request(c, p)`. -/
theorem requestsEnqueueOrReportNotOpen : Obligations.RequestsEnqueueOrReportNotOpen := by
  intro i opc opnd c p hrow
  refine ⟨encode_of_requestRow hrow, fun s ho hroom => ⟨_, exec_request hrow s, ?room⟩,
    fun s ho hfull => ⟨_, exec_request hrow s, ?full⟩, fun s hc => ⟨_, exec_request hrow s, ?closed⟩⟩
  case room =>
    have hq : queueFull s = false := Bool.eq_false_iff.2 (mt queueFull_iff.1 hroom)
    rw [request_of_room ho hq]
    rfl
  case full => rw [request_of_full ho hfull]; rfl
  case closed => rw [request_of_closed hc]; rfl

/-- A held request that has its step, and that every next input lets go first, is taken (R123, R181). -/
theorem step_takes_held {s : State} {e : Entry} {later : List Entry} (hh : s.held = e :: later)
    (hready : requestHasStep s = true) (hfirst : ∀ passed inp rest, NextInput s passed inp rest → inp.heldFirst = true) :
    step s = .next (request e.cmd e.payload { s with held := later }) :=
  step_of_held hh (heldGoes_iff.2 ⟨by simp [heldReady, hh, hready], hfirst⟩)

/-- Settles O7: the held request has its step, and is then enqueued or reported. -/
theorem heldRequestTakenWhenRoom : Obligations.HeldRequestTakenWhenRoom := by
  refine ⟨fun s e later hh ho hroom hfirst => ?room, fun s e later hh hc hfirst => ?closed⟩
  case room =>
    rw [step_takes_held hh (by simp [requestHasStep, hroom]) hfirst,
      request_of_room (s := { s with held := later }) ho hroom]
    rfl
  case closed =>
    rw [step_takes_held hh (by simp [requestHasStep, hc]) hfirst, request_of_closed (s := { s with held := later }) hc]
    rfl

/-! ### DISPATCH -/

section
variable {s : State} {e : Entry} {q : List Entry}

/-- With a command in the queue, open and IDLE are the guard of DISPATCH (R131). -/
theorem canDispatch_of_cons (ho : s.isOpen = true) (hf : s.fsm = .idle) (hq : s.queue = e :: q) :
    canDispatch s = true :=
  canDispatch_iff.2 ⟨ho, hf, by simp [hq]⟩

theorem transmit_of_ok (ho : s.isOpen = true) (hf : s.fsm = .idle) (hq : s.queue = e :: q) (ha : answer s = .ok) :
    transmit s = setTimer s.cfg.tTimeout (setFsm .await (send (encodeFrame s.cfg.cmdCode e.cmd e.payload) s)) := by
  simp [transmit, canDispatch_of_cons ho hf hq, peekHead, hq, ha]

theorem transmit_of_fail (ho : s.isOpen = true) (hf : s.fsm = .idle) (hq : s.queue = e :: q)
    (ha : answer s = .fail) : transmit s = send (encodeFrame s.cfg.cmdCode e.cmd e.payload) s := by
  simp [transmit, canDispatch_of_cons ho hf hq, peekHead, hq, ha]

/-- Under its guard DISPATCH sends the head's frame, whatever the verdict (R131). -/
theorem transmit_txlog (ho : s.isOpen = true) (hf : s.fsm = .idle) (hq : s.queue = e :: q) :
    (transmit s).txlog = s.txlog ++ [⟨encodeFrame s.cfg.cmdCode e.cmd e.payload, answer s⟩] := by
  cases ha : answer s with
  | ok => simp [transmit_of_ok ho hf hq ha, ha]
  | fail => simp [transmit_of_fail ho hf hq ha, ha]

/-- Without its guard DISPATCH has no effect (R131). -/
theorem transmit_of_unguarded (h : s.isOpen = false ∨ s.fsm = .await ∨ s.queue = []) : transmit s = s := by
  have hg : ¬ canDispatch s = true := by
    rw [canDispatch_iff]
    rintro ⟨ho, hf, hq⟩
    simp [ho, hf, hq] at h
  simp [transmit, hg]

end

/-- Settles O15: by the guard and the verdict. -/
theorem dispatchSendsTheHead : Obligations.DispatchSendsTheHead := by
  refine ⟨rfl, fun s e q ho hf hq ha => ⟨_, exec_dispatch s, ?ok⟩,
    fun s e q ho hf hq ha => ⟨_, exec_dispatch s, ?fail⟩, fun s h => ?unguarded⟩
  case ok => simp [transmit_of_ok ho hf hq ha, State.block, ha]
  case fail => simp [transmit_of_fail ho hf hq ha, State.block, ha]
  case unguarded => rw [exec_dispatch, transmit_of_unguarded h]

/-- Settles O16: a failed write leaves the guard and the head as they were. -/
theorem failedWriteIsResent : Obligations.FailedWriteIsResent := by
  intro s t e q v ho hf hq ha h
  rw [exec_dispatch, transmit_of_fail ho hf hq ha] at h
  cases h
  refine ⟨_, exec_dispatch _, ?_⟩
  rw [transmit_txlog (s := { send (encodeFrame s.cfg.cmdCode e.cmd e.payload) s with draw := v }) ho hf hq]
  simp [ha]

/-- Settles O35: the two effects that send a frame are DISPATCH's. -/
theorem onlyDispatchTransmits : Obligations.OnlyDispatchTransmits := by
  intro i s t hi h
  cases exec_effect h with
  | writeFailed hd | transmitted hd => exact absurd hd hi
  | _ => rfl

/-! ### Notifications -/

/-- The records an instruction emits, one constructor per rule that emits any, with the state the rule asks for;
`exec_notifies` ties it to `exec`. -/
inductive Notifies (i : Instr) (s : State) : List Record → Prop where
  | nothing : Notifies i s []
  | openReport (hi : i = .isOpen) : Notifies i s [.rIsOpen s.isOpen]
  | notOpen (c : Byte) (hrow : requestRow i ≠ none) (hclosed : s.isOpen = false) :
      Notifies i s [.nError .notOpen c 0#8]
  | value (f : List Byte) (v : Half) (c : Byte) (hi : ReceivesBytes i) (hawait : s.fsm = .await)
      (hshape : shapeOK f = true) : Notifies i s [.nRawFrame f, .nValue v c]
  | mismatch (f : List Byte) (c : Byte) (hi : ReceivesBytes i) (hawait : s.fsm = .await)
      (hshape : shapeOK f = true) : Notifies i s [.nRawFrame f, .nError .checksumMismatch c 0#8]
  | timeout (c : Byte) (hi : i = .timeTick) (hawait : s.fsm = .await) (hcount : s.tmrCnt ≤ 1) :
      Notifies i s [.nError .responseTimeout c 0#8]
  | fault {kind : BitVec 7} (c d : Byte) (hi : i = .lineError kind false) : Notifies i s [.nError .transportFault c d]
  | fatal {kind : BitVec 7} (c d : Byte) (hi : i = .lineError kind true) :
      Notifies i s [.nError .transportFault c d, .nFatal d]

section
variable {i : Instr} {s t : State}

theorem connect_out (s : State) : (connect s).out = s.out := by
  obtain ⟨-, h⟩ | ⟨-, -, h⟩ | ⟨-, -, h⟩ := connect_cases s <;> simp [h]

theorem disconnect_out (s : State) : (disconnect s).out = s.out := by
  obtain ⟨-, h⟩ | ⟨-, h⟩ := disconnect_cases s <;> simp [h]

theorem transmit_out (s : State) : (transmit s).out = s.out := by
  obtain ⟨-, h⟩ | ⟨e, q, -, -, -, ⟨-, h⟩ | ⟨-, h⟩⟩ := transmit_cases s <;> simp [h]

/-- A request (R123). -/
theorem request_notifies (hrow : requestRow i ≠ none) (c : Command) (p : Half) :
    ∃ rs, Notifies i s rs ∧ (request c p s).out = s.out ++ rs := by
  obtain ⟨hc, h⟩ | ⟨-, -, h⟩ | ⟨-, -, h⟩ := request_cases c p s <;> rw [h]
  · exact ⟨_, .notOpen _ hrow hc, rfl⟩
  · exact ⟨_, .nothing, by simp⟩
  · exact ⟨_, .nothing, by simp⟩

/-- Received bytes (R150-R153). -/
theorem receive_notifies (hi : ReceivesBytes i) (bs : List Byte) :
    ∃ rs, Notifies i s rs ∧ (receive bs s).out = s.out ++ rs := by
  obtain ⟨-, h⟩ | ⟨-, -, h⟩ | ⟨d, k, hf, hd, h⟩ := receive_cases bs s <;> rw [h]
  · exact ⟨_, .nothing, by simp⟩
  · exact ⟨_, .nothing, by simp⟩
  · have hshape : shapeOK (s.rxbuf ++ bs) = true := ((tryDecode_frame_iff _ d k).1 hd).1
    obtain ⟨v, -, hr⟩ | ⟨-, hr⟩ := resolveFrame_cases (s.rxbuf ++ bs) d k s <;> rw [hr]
    · exact ⟨_, .value _ v (headTag s) hi hf hshape, by simp⟩
    · exact ⟨_, .mismatch _ (headTag s) hi hf hshape, by simp⟩

/-- TIME_TICK (R154, R155). -/
theorem tick_notifies (hi : i = .timeTick) : ∃ rs, Notifies i s rs ∧ (tick s).out = s.out ++ rs := by
  obtain ⟨-, h⟩ | ⟨-, -, h⟩ | ⟨hf, hn, h⟩ := tick_cases s <;> rw [h]
  · exact ⟨_, .nothing, by simp⟩
  · exact ⟨_, .nothing, by simp⟩
  · exact ⟨_, .timeout _ hi hf hn, rfl⟩

/-- LINE_ERROR (R156, R157). -/
theorem lineFault_notifies {kind : BitVec 7} {fatal : Bool} (hi : i = .lineError kind fatal) (d : Byte) :
    ∃ rs, Notifies i s rs ∧ (lineFault d fatal s).out = s.out ++ rs := by
  cases fatal
  · exact ⟨_, .fault (headTag s) d hi, rfl⟩
  · exact ⟨_, .fatal (headTag s) d hi, by simp [lineFault]⟩

/-- What an instruction appends to OUT it emits by one of the rules. -/
theorem exec_notifies (h : exec i s = .next t) : ∃ rs, Notifies i s rs ∧ t.out = s.out ++ rs := by
  obtain ⟨-, rfl⟩ | ⟨-, rfl⟩ | ⟨hi, rfl⟩ | ⟨opc, opnd, c, p, hrow, rfl⟩ | ⟨-, rfl⟩ | ⟨bs, hi, rfl⟩ |
    ⟨kind, fatal, hi, rfl⟩ | ⟨hi, rfl⟩ | ⟨-, rfl⟩ := exec_cases h
  · exact ⟨_, .nothing, by simp [connect_out]⟩
  · exact ⟨_, .nothing, by simp [disconnect_out]⟩
  · exact ⟨_, .openReport hi, rfl⟩
  · exact request_notifies (by simp [hrow]) c p
  · exact ⟨_, .nothing, by simp [transmit_out]⟩
  · refine receive_notifies (hi.imp (fun h => ⟨bs, h⟩) ?_) bs
    rintro ⟨d0, d1, d2, d3, k0, k1, h, -⟩
    exact ⟨d0, d1, d2, d3, k0, k1, h⟩
  · exact lineFault_notifies hi (faultDetail kind)
  · exact tick_notifies hi
  · exact ⟨_, .nothing, by simp⟩

end

/-! From a record of the sequence, the rule that emitted it. -/

section
variable {i : Instr} {s : State} {rs : List Record} {c d : Byte}

theorem Notifies.of_notOpen (h : Notifies i s rs) (hm : .nError .notOpen c d ∈ rs) :
    requestRow i ≠ none ∧ s.isOpen = false := by
  cases h with
  | notOpen _ hrow hclosed => exact ⟨hrow, hclosed⟩
  | _ => simp at hm

theorem Notifies.of_checksumMismatch (h : Notifies i s rs) (hm : .nError .checksumMismatch c d ∈ rs) :
    ReceivesBytes i ∧ s.fsm = .await ∧ ∃ f, rs = [.nRawFrame f, .nError .checksumMismatch c d] := by
  cases h with
  | mismatch f c' hi hawait =>
    obtain ⟨rfl, rfl⟩ : c = c' ∧ d = 0#8 := by simpa using hm
    exact ⟨hi, hawait, f, rfl⟩
  | _ => simp at hm

theorem Notifies.of_responseTimeout (h : Notifies i s rs) (hm : .nError .responseTimeout c d ∈ rs) :
    i = .timeTick ∧ s.fsm = .await ∧ s.tmrCnt ≤ 1 := by
  cases h with
  | timeout _ hi hawait hcount => exact ⟨hi, hawait, hcount⟩
  | _ => simp at hm

theorem Notifies.of_transportFault (h : Notifies i s rs) (hm : .nError .transportFault c d ∈ rs) :
    ∃ kind fatal, i = .lineError kind fatal := by
  cases h with
  | fault _ _ hi | fatal _ _ hi => exact ⟨_, _, hi⟩
  | _ => simp at hm

theorem Notifies.of_nFatal (h : Notifies i s rs) (hm : .nFatal d ∈ rs) :
    ∃ kind c, i = .lineError kind true ∧ rs = [.nError .transportFault c d, .nFatal d] := by
  cases h with
  | fatal c d' hi =>
    obtain rfl : d = d' := by simpa using hm
    exact ⟨_, c, hi, rfl⟩
  | _ => simp at hm

theorem Notifies.of_nValue {v : Half} (h : Notifies i s rs) (hm : .nValue v c ∈ rs) :
    ReceivesBytes i ∧ s.fsm = .await ∧ ∃ f, rs = [.nRawFrame f, .nValue v c] := by
  cases h with
  | value f v' c' hi hawait =>
    obtain ⟨rfl, rfl⟩ : v = v' ∧ c = c' := by simpa using hm
    exact ⟨hi, hawait, f, rfl⟩
  | _ => simp at hm

theorem Notifies.of_nRawFrame {f : List Byte} (h : Notifies i s rs) (hm : .nRawFrame f ∈ rs) :
    ReceivesBytes i ∧ s.fsm = .await ∧ shapeOK f = true := by
  cases h with
  | value f' _ _ hi hawait hshape | mismatch f' _ hi hawait hshape =>
    obtain rfl : f = f' := by simpa using hm
    exact ⟨hi, hawait, hshape⟩
  | _ => simp at hm

theorem Notifies.of_rIsOpen {b : Bool} (h : Notifies i s rs) (hm : .rIsOpen b ∈ rs) :
    i = .isOpen ∧ b = s.isOpen := by
  cases h with
  | openReport hi => exact ⟨hi, by simpa using hm⟩
  | _ => simp at hm

end

/-- Settles O38: the records are those of `exec_notifies`, and each names its rule. -/
theorem notificationsComeFromTheirRules : Obligations.NotificationsComeFromTheirRules := by
  intro i s t rs h hout
  obtain ⟨rs', hn, hout'⟩ := exec_notifies h
  obtain rfl : rs = rs' := List.append_cancel_left (hout.symm.trans hout')
  exact ⟨fun _ _ => hn.of_notOpen, fun _ _ => hn.of_checksumMismatch, fun _ _ => hn.of_responseTimeout,
    fun _ _ => hn.of_transportFault, fun _ => hn.of_nFatal, fun _ _ => hn.of_nValue, fun _ => hn.of_nRawFrame,
    fun _ => hn.of_rIsOpen⟩

end Sys2Proof.Machine

/-! PROOFS. The statements of the family 42_transport_events: what received bytes, ticks of the time base and line errors make of
the block, and when a transmitted command times out. -/

namespace Sys2Proof.Machine

/-! ### Errors and their recovery -/

/-- TIME_TICK runs the rule of R154. -/
theorem exec_timeTick (s : State) : exec .timeTick s = .next (tick s) := rfl

/-- LINE_ERROR runs the rule of R156, with its kind as the detail. -/
theorem exec_lineError (kind : BitVec 7) (fatal : Bool) (s : State) :
    exec (.lineError kind fatal) s = .next (lineFault (kind.setWidth 8) fatal s) := rfl

/-- With nothing pending the tag is that of NONE (R171). -/
theorem headTag_of_nil {s : State} (hq : s.queue = []) : headTag s = 0#8 := by
  simp [headTag, headCmd, hq, cmdTag, cmdCode]

/-- An error taken with a command pending reports the command and drops it (R170, R178). -/
theorem takeError_block_of_cons {k : ErrorKind} {d : Byte} {s : State} {e : Entry} {q : List Entry}
    (hq : s.queue = e :: q) :
    (takeError k d s).block = { s.block with
      fsm := .idle
      tmrCnt := 0
      rxbuf := []
      queue := q
      out := s.out ++ [.nError k (cmdTag s.cfg.cmdCode e.cmd) d] } := by
  simp [State.block, hq, headTag_of_cons hq]

/-- A line error in any state: TransportFault with the head's tag, N_FATAL after it if it is fatal, and the recovery (R156, R157). -/
theorem lineFault_block (d : Byte) (fatal : Bool) (s : State) :
    (lineFault d fatal s).block = { s.block with
      fsm := .idle
      tmrCnt := 0
      rxbuf := []
      queue := s.queue.tail
      out := s.out ++ [.nError .transportFault (headTag s) d] ++ if fatal = true then [.nFatal d] else [] } := by
  cases fatal <;> simp [lineFault, State.block]

/-- Settles O23: by `lineFault_block`, with the head's tag and the rest of the queue told by the queue. -/
theorem lineErrorReportsAndRecovers : Obligations.LineErrorReportsAndRecovers := by
  refine ⟨fun _ _ => rfl, fun s e q kind fatal hq => ⟨_, exec_lineError .., ?cons⟩,
    fun s kind fatal hq => ⟨_, exec_lineError .., ?nil⟩⟩
  case cons => rw [lineFault_block, headTag_of_cons hq, hq, List.tail_cons]
  case nil =>
    rw [lineFault_block, headTag_of_nil hq]
    simp [State.block, hq]

/-! ### Received bytes -/

/-- A buffer from which TryDecode answers no frame is not well-shaped (R108). -/
theorem shapeOK_eq_false_of_not_frame {b : List Byte} (h : ∀ d k, tryDecode b ≠ .frame d k) : shapeOK b = false := by
  rw [Bool.eq_false_iff]
  intro hs
  exact h _ _ ((tryDecode_frame_iff b _ _).2 ⟨hs, rfl, rfl⟩)

/-- In AWAIT, bytes that complete no frame change the buffer alone (R153). -/
theorem rxChunk_of_not_frame {s : State} {bs : List Byte} (hf : s.fsm = .await) (hs : shapeOK (s.rxbuf ++ bs) = false) :
    Becomes (.rxChunk bs) s { s.block with rxbuf := s.rxbuf ++ bs } :=
  ⟨_, exec_rxChunk bs s, by rw [receive_of_not_frame hf hs]; rfl⟩

/-- A resolved frame ends AWAIT, whatever its checksum says (R151, R152). -/
theorem resolveFrame_fsm (buf d k : List Byte) (s : State) : (resolveFrame buf d k s).fsm = .idle := by
  obtain ⟨rs, -, h⟩ := resolveFrame_eq_resolveHead buf d k s
  rw [h]
  rfl

/-- Settles O17: discarded in IDLE; in AWAIT kept where the buffer is no frame, else resolved by its checksum. -/
theorem chunkIsKeptOrResolvesTheHead : Obligations.ChunkIsKeptOrResolvesTheHead := by
  refine ⟨fun _ => rfl, fun s bs hf => ?idle, fun s bs hf ht => ?kept,
    fun s bs d k e q v hf hq ht hv => ⟨_, exec_rxChunk .., receive_block_of_ok hf hq ht hv⟩,
    fun s bs d k e q hf hq ht hv => ⟨_, exec_rxChunk .., receive_block_of_mismatch hf hq ht hv⟩⟩
  case idle => rw [exec_rxChunk, receive_of_idle bs hf]
  case kept =>
    refine rxChunk_of_not_frame hf (shapeOK_eq_false_of_not_frame fun d k hframe => ?_)
    obtain hi | hi := ht
    · cases hi.symm.trans hframe
    · cases hi.symm.trans hframe

/-- Settles O19: the frame alone resolves and leaves IDLE; with a byte more the buffer matches no frame (R109). -/
theorem chunkingDecidesTheOutcome : Obligations.ChunkingDecidesTheOutcome := by
  intro s f extra hf hbuf hshape hextra
  constructor
  · have hframe : tryDecode (s.rxbuf ++ f) = .frame ((f.drop 1).take 4) ((f.drop 5).take 2) := by
      rw [hbuf, List.nil_append, tryDecode_frame_iff]
      exact ⟨hshape, rfl, rfl⟩
    have hidle : (receive f s).fsm = .idle := by rw [receive_of_frame hf hframe, resolveFrame_fsm]
    exact ⟨_, exec_rxChunk f s, hidle, by rw [exec_rxChunk, receive_of_idle extra hidle]⟩
  · have hlong : shapeOK (f ++ extra) = false :=
      shapeOK_eq_false_of_not_frame (frameMatchIsExact.2 f [] extra hshape (.inr hextra))
    have h := rxChunk_of_not_frame (bs := f ++ extra) hf (by rwa [hbuf])
    rwa [hbuf] at h

/-! ### Ticks -/

section
variable {s : State}

/-- In IDLE a tick has no effect (R154). -/
theorem tick_of_idle (hf : s.fsm = .idle) : tick s = s := by
  simp [tick, tmrRunning_false_iff.2 hf]

/-- In AWAIT a counter above 1 goes down by one (R154). -/
theorem tick_of_two_le (hf : s.fsm = .await) (hn : 2 ≤ s.tmrCnt) : tick s = setTimer (s.tmrCnt - 1) s := by
  have h0 : s.tmrCnt - 1 ≠ 0 := by omega
  simp [tick, tmrRunning_iff.2 hf, h0]

/-- In AWAIT the last tick takes the timeout (R155). -/
theorem tick_of_one (hf : s.fsm = .await) (hn : s.tmrCnt = 1) :
    tick s = takeError .responseTimeout 0#8 (setTimer 0 s) := by
  simp [tick, tmrRunning_iff.2 hf, hn]

/-- Settles O21: by the state, and in AWAIT by the counter. -/
theorem timeTickCountsDownAndExpires : Obligations.TimeTickCountsDownAndExpires := by
  refine ⟨rfl, fun s hf => ?idle, fun s n hf hn => ⟨_, exec_timeTick s, ?counts⟩,
    fun s e q hf hn hq => ⟨_, exec_timeTick s, ?expires⟩⟩
  case idle => rw [exec_timeTick, tick_of_idle hf]
  case counts =>
    rw [tick_of_two_le hf (by omega), hn]
    rfl
  case expires =>
    rw [tick_of_one hf hn]
    exact takeError_block_of_cons hq

/-- A row of ticks runs `tick` so many times. -/
theorem execTicks_eq_iterate (n : Nat) (s : State) : execTicks n s = .next (tick^[n] s) := by
  induction n generalizing s with
  | zero => rfl
  | succ n ih => exact ih (tick s)

/-- While fewer ticks have passed than the counter holds, they only count down (R154). -/
theorem tick_iterate_of_lt (hf : s.fsm = .await) {k : Nat} (hk : k < s.tmrCnt) :
    tick^[k] s = setTimer (s.tmrCnt - k) s := by
  induction k with
  | zero => rfl
  | succ k ih =>
    have hn : 2 ≤ s.tmrCnt - k := by omega
    rw [Function.iterate_succ_apply', ih (by omega), tick_of_two_le (s := setTimer (s.tmrCnt - k) s) hf hn]
    rfl

/-- After as many ticks as the counter holds the timeout is taken (R155, R158). -/
theorem tick_iterate_tmrCnt (hf : s.fsm = .await) (hpos : 1 ≤ s.tmrCnt) :
    tick^[s.tmrCnt] s = takeError .responseTimeout 0#8 (setTimer 0 s) := by
  obtain ⟨k, hk⟩ := Nat.exists_eq_add_of_le' hpos
  have hlast : s.tmrCnt - k = 1 := by omega
  rw [hk, Function.iterate_succ_apply', tick_iterate_of_lt hf (by omega), hlast,
    tick_of_one (s := setTimer 1 s) hf rfl]
  rfl

end

/-- Settles O22: the transmit loads the counter with `T_TIMEOUT`; it counts down, the last tick takes the timeout, and in IDLE
one more has no effect. -/
theorem timeoutFiresAtTheLastTick : Obligations.TimeoutFiresAtTheLastTick := by
  intro s t e q ho hidle hq ha hpos h
  rw [exec_dispatch, transmit_of_ok ho hidle hq ha] at h
  cases h
  have hexpired := tick_iterate_tmrCnt
    (s := setTimer s.cfg.tTimeout (setFsm .await (send (encodeFrame s.cfg.cmdCode e.cmd e.payload) s))) rfl hpos
  rw [setTimer_tmrCnt] at hexpired
  simp only [execTicks_eq_iterate]
  refine ⟨fun k hk => ?earlier, _, rfl, ?last, ?once⟩
  case earlier =>
    rw [tick_iterate_of_lt rfl hk]
    rfl
  case last =>
    rw [hexpired]
    exact takeError_block_of_cons hq
  case once =>
    rw [Function.iterate_succ_apply', hexpired, tick_of_idle (takeError_fsm _ _ _)]

end Sys2Proof.Machine

/-! PROOFS. The statements of the family 60_exceptions: the records of one step, the idle step, and the two orders of a held
request and another agent's event. -/

namespace Sys2Proof.Machine

/-! ### The records of one step -/

/-- What the rules of an instruction emit is one of the sequences of R182. -/
theorem Notifies.eventRecords {i : Instr} {s : State} {rs : List Record} (h : Notifies i s rs) : EventRecords rs := by
  cases h with
  | nothing => exact .nothing
  | openReport => exact .openReport _
  | notOpen c => exact .error _ c _
  | value f v c => exact .value f v c
  | mismatch f c => exact .mismatch f c
  | timeout c => exact .error _ c _
  | fault c d => exact .error _ c d
  | fatal c d => exact .fatal c d

theorem exec_eventRecords {i : Instr} {s t : State} (h : exec i s = .next t) :
    ∃ rs, EventRecords rs ∧ t.out = s.out ++ rs := by
  obtain ⟨rs, hrs, hout⟩ := exec_notifies h
  exact ⟨rs, hrs.eventRecords, hout⟩

/-- A request, presented or held, emits NotOpen or nothing (R123). -/
theorem request_eventRecords (c : Command) (p : Half) (s : State) :
    ∃ rs, EventRecords rs ∧ (request c p s).out = s.out ++ rs := by
  obtain ⟨-, h⟩ | ⟨-, -, h⟩ | ⟨-, -, h⟩ := request_cases c p s <;> rw [h]
  · exact ⟨_, .error .notOpen _ _, rfl⟩
  · exact ⟨_, .nothing, by simp⟩
  · exact ⟨_, .nothing, by simp⟩

/-- Settles O37: a step idles, takes a held request, or runs an instruction, whose records its rules give. -/
theorem recordsOfOneEvent : Obligations.RecordsOfOneEvent := by
  refine ⟨fun i s t h => exec_eventRecords h, fun s t h => ?step⟩
  obtain rfl | ⟨e, later, -, -, rfl⟩ | ⟨passed, inp, later, i, rest, -, -, hx⟩ := step_cases h
  · exact ⟨[], .nothing, by simp⟩
  · exact request_eventRecords e.cmd e.payload { s with held := later }
  · exact exec_eventRecords (s := takeInput ⟨passed, inp, later⟩ rest s) hx

/-! ### The next input -/

section
variable {s : State} {passed passed' later later' : List Input} {inp inp' : Input}

/-- At most one input is next. -/
theorem NextInput.inp_unique (h : NextInput s passed inp later) (h' : NextInput s passed' inp' later') : inp' = inp := by
  have hc := (chosen_iff.2 h').symm.trans (chosen_iff.2 h)
  cases hc
  rfl

/-- While a request is held, an input of another agent or a CLOSE is next when it is presented first (R181, log 20). -/
theorem nextInput_of_head (hh : s.held ≠ []) (hi : s.inbox = inp :: later)
    (hmay : otherAgent inp = true ∨ spells inp .closeLink = true) : NextInput s [] inp later := by
  refine ⟨hi, .inr ?_⟩
  obtain hother | hclose := hmay
  · exact .inr ⟨hh, hother, by simp, by simp⟩
  · exact .inl ⟨hh, rfl, hclose⟩

/-- While a request is held and only waiting words of the host are presented, no input is next (log 20). -/
theorem not_nextInput_of_waiting (hh : s.held ≠ []) (hwait : ∀ w ∈ s.inbox, otherAgent w = false)
    (hclose : ∀ w ∈ s.inbox.head?, spells w .closeLink = false) : ¬ NextInput s passed inp later := by
  rintro ⟨hi, ⟨hnone, -⟩ | ⟨-, rfl, hc⟩ | ⟨-, hother, -⟩⟩
  · exact hh hnone
  · have hno : spells inp .closeLink = false := hclose inp (by simp [hi])
    simp [hno] at hc
  · have hno : otherAgent inp = false := hwait inp (by simp [hi])
    simp [hno] at hother

/-- With no next input and no held request that has its step, the step changes nothing (R191). -/
theorem step_of_no_nextInput (hready : heldReady s = false) (hnone : ∀ passed inp later, ¬ NextInput s passed inp later) :
    step s = .next s := by
  have hgoes : heldGoes s = false := by simp [heldGoes, hready]
  have hchosen : chosen s = none :=
    Option.eq_none_iff_forall_ne_some.2 fun ⟨p, i, l⟩ hc => hnone p i l (chosen_iff.1 hc)
  simp [step, fetch, hgoes, hchosen]

end

/-- Settles O6: an empty inbox, or one of waiting words, has no next input. -/
theorem idleBlockKeepsState : Obligations.IdleBlockKeepsState := by
  refine ⟨fun s hempty hready => ?empty, fun s hh hready hwait hclose => ?waiting⟩
  case empty => exact step_of_no_nextInput hready fun _ _ _ ⟨hi, _⟩ => by simp [hempty] at hi
  case waiting => exact step_of_no_nextInput hready fun _ _ _ => not_nextInput_of_waiting hh hwait hclose

/-- Settles O43: with either `heldFirst` the input is next, and the held request goes before it exactly when it says so. -/
theorem eitherAgentMayGoFirst : Obligations.EitherAgentMayGoFirst := by
  intro s e more inp later i rest hh hready hmay hd
  have hne : s.held ≠ [] := by simp [hh]
  have hnext (b : Bool) : NextInput { s with inbox := { inp with heldFirst := b } :: later } []
      { inp with heldFirst := b } later := nextInput_of_head hne rfl hmay
  refine ⟨?heldFirst, ?inputFirst⟩
  case heldFirst =>
    exact step_of_held hh (heldGoes_iff.2 ⟨hready, fun _ _ _ hn => by rw [(hnext true).inp_unique hn]⟩)
  case inputFirst =>
    rw [step_of_decode (hnext false) (.inr rfl) hd, takeInput_eq]
    rfl

end Sys2Proof.Machine

/-! PROOFS. The statements of the family 70_reset_and_hazards: the reset pin, and a receive buffer that no further byte can
complete to a frame. -/

namespace Sys2Proof.Machine

/-! ### Reset -/

/-- RESET closes and clears the link without a call of the transport (R200). -/
theorem exec_reset (s : State) : exec .reset s = .next (clearLink (setOpen false s)) := rfl

/-- A closed and cleared link is the cleared block with its histories (R39). -/
theorem clearLink_setOpen_false_block (s : State) : (clearLink (setOpen false s)).block = s.block.cleared := rfl

/-- Settles O9: by the block that RESET leaves, and the call history that `clearLink` and `setOpen` keep. -/
theorem resetPinClearsTheBlock : Obligations.ResetPinClearsTheBlock := by
  intro s
  refine ⟨⟨_, exec_reset s, clearLink_setOpen_false_block s⟩, fun t h => ?calls⟩
  case calls =>
    rw [exec_reset] at h
    cases h
    rw [clearLink_xctl, setOpen_xctl]

/-! ### A buffer that is no prefix of a frame -/

/-- A buffer has InvalidShape exactly when no bytes after it make a frame (R108), so more bytes leave it InvalidShape. -/
theorem tryDecode_invalidShape_append {b : List Byte} (m : List Byte) (h : tryDecode b = .invalidShape) :
    tryDecode (b ++ m) = .invalidShape := by
  obtain ⟨-, -, hinvalid⟩ := tryDecodeClassifiesBuffers
  rw [hinvalid] at h ⊢
  intro n
  rw [List.append_assoc]
  exact h (m ++ n)

/-- Settles O20: the longer buffer is InvalidShape too, so it is no frame and the chunk is only kept (R153). -/
theorem garbageBlocksTheMatch : Obligations.GarbageBlocksTheMatch := by
  intro s bs hf hgarbage
  have hlonger := tryDecode_invalidShape_append bs hgarbage
  have hshape : shapeOK (s.rxbuf ++ bs) = false := shapeOK_eq_false_of_not_frame fun d k => by simp [hlonger]
  exact ⟨rxChunk_of_not_frame hf hshape, hlonger⟩

end Sys2Proof.Machine
